-- ==== Sys2Proof/Word.lean ====
section
/-! DEFINITION. The word types of the fw_ssbf engine (00_scope.md section 5): every field is an unsigned
number of 8, 16 or 32 bits. Offsets, lengths and counts are natural numbers that no rule wraps (R1). -/

namespace Sys2Proof

/-- The unit of addressing in FILE and PIH (20_memory.md): a byte is 8 bits. -/
abbrev Byte := BitVec 8

/-- A `u16` field, or the 16-bit command word (R43, R51). -/
abbrev Half := BitVec 16

/-- A `u32` field (R43). -/
abbrev Word := BitVec 32

end Sys2Proof
end

