-- ==== Sys2Proof/Syntax.lean ====
section
/-! DEFINITION. The thirteen commands of the engine (R52, spec/opcode_table.json), one constructor per row. -/

namespace Sys2Proof

/-- A command the host can issue (R52). The only operand a command word carries is the byte of `CSPUSH` (R53);
every other operand is implicit in the state. -/
inductive Instr where
  /-- `NOP`, R62. -/
  | nop
  /-- `START`, R60: begin a decode pass. -/
  | start
  /-- `END`, R61: back to the reset state. -/
  | endPass
  /-- `CSCLR`, R67. -/
  | csclr
  /-- `CSPUSH imm8`, R68. -/
  | cspush (imm8 : Byte)
  /-- `CSRNG`, R69: operands `ARG0`, `ARG1`. -/
  | csrng
  /-- `PMAIN`, R75: parse the MainHeader. -/
  | pmain
  /-- `PENC`, R80: parse the EncryptionHeader. -/
  | penc
  /-- `EOPEN`, R88: open the envelope. -/
  | eopen
  /-- `PMETA`, R94: parse the MetaHeader. -/
  | pmeta
  /-- `PDATA`, R95: parse the DataHeader. -/
  | pdata
  /-- `BINIT`, R101: (re)start the block stream. -/
  | binit
  /-- `BNEXT`, R102: the next element of the block stream. -/
  | bnext
  deriving DecidableEq, Repr

/-- The command's name in the opcode table (R52, R56). -/
def Instr.mnemonic : Instr → String
  | .nop => "NOP"
  | .start => "START"
  | .endPass => "END"
  | .csclr => "CSCLR"
  | .cspush _ => "CSPUSH"
  | .csrng => "CSRNG"
  | .pmain => "PMAIN"
  | .penc => "PENC"
  | .eopen => "EOPEN"
  | .pmeta => "PMETA"
  | .pdata => "PDATA"
  | .binit => "BINIT"
  | .bnext => "BNEXT"

end Sys2Proof
end

