-- ==== Sys2Proof/WellFormed.lean ====
section
/-! DEFINITION. Which command words are allocated: the table of R52, row by row, as masks and matches.
`Decode.lean` reads opcode and immediate fields instead; the two are compared by a statement. An `Instr` has no
ill-formed term: its one operand is a byte (R53). What can be ill-formed is a command word. -/

namespace Sys2Proof

/-- A row of the opcode map: the word `w` selects it when `w & mask = pattern` (R52). -/
structure Row where
  mnemonic : String
  pattern : Half
  mask : Half
  deriving DecidableEq, Repr

/-- `w & mask = match` of R52. -/
def Row.selects (r : Row) (w : Half) : Bool := w &&& r.mask == r.pattern

/-- The rows of group 0, control (R52). -/
def controlRows : List Row :=
  [⟨"NOP", 0x0000#16, 0xFFFF#16⟩, ⟨"START", 0x0001#16, 0xFFFF#16⟩, ⟨"END", 0x0002#16, 0xFFFF#16⟩]

/-- The rows of group 1, checksum (R52). -/
def checksumRows : List Row :=
  [⟨"CSCLR", 0x0010#16, 0xFFFF#16⟩, ⟨"CSPUSH", 0x0011#16, 0x00FF#16⟩, ⟨"CSRNG", 0x0012#16, 0xFFFF#16⟩]

/-- The rows of group 2, header parse (R52). -/
def headerRows : List Row :=
  [⟨"PMAIN", 0x0020#16, 0xFFFF#16⟩, ⟨"PENC", 0x0021#16, 0xFFFF#16⟩, ⟨"EOPEN", 0x0022#16, 0xFFFF#16⟩,
    ⟨"PMETA", 0x0023#16, 0xFFFF#16⟩, ⟨"PDATA", 0x0024#16, 0xFFFF#16⟩]

/-- The rows of group 3, block stream (R52). -/
def streamRows : List Row :=
  [⟨"BINIT", 0x0030#16, 0xFFFF#16⟩, ⟨"BNEXT", 0x0031#16, 0xFFFF#16⟩]

/-- The opcode map of R52. -/
def commandTable : List Row := controlRows ++ checksumRows ++ headerRows ++ streamRows

/-- A word some row of the map selects; every other word is reserved (R55). -/
def wordAllocated (w : Half) : Bool := commandTable.any (·.selects w)

end Sys2Proof
end

