-- ==== Sys2Proof/Decode.lean ====
section
/-! DEFINITION. The command word (30_encoding.md part B): decoding, total on all 65,536 words and rejecting by
name, and the encoder written from the same map (R51, R52, R53). -/

namespace Sys2Proof

/-- Why a word is no command (R55 (a)). -/
inductive DecodeError where
  /-- No row of R52 has this opcode. -/
  | reservedOpcode (op : Byte)
  /-- The opcode is allocated and its command takes no immediate, but `imm8` is not 0 (R53). -/
  | reservedImmediate (op imm8 : Byte)
  deriving DecidableEq, Repr

/-- Bits 7:0 of the word (R51). -/
def opcodeOf (w : Half) : Byte := w.extractLsb' 0 8

/-- Bits 15:8 of the word (R51, R53). -/
def imm8Of (w : Half) : Byte := w.extractLsb' 8 8

/-- The command of an opcode whose operands are all implicit (R52): every row but `CSPUSH`. -/
def implicitCommand (op : Byte) : Option Instr :=
  if op = 0x00#8 then some .nop
  else if op = 0x01#8 then some .start
  else if op = 0x02#8 then some .endPass
  else if op = 0x10#8 then some .csclr
  else if op = 0x12#8 then some .csrng
  else if op = 0x20#8 then some .pmain
  else if op = 0x21#8 then some .penc
  else if op = 0x22#8 then some .eopen
  else if op = 0x23#8 then some .pmeta
  else if op = 0x24#8 then some .pdata
  else if op = 0x30#8 then some .binit
  else if op = 0x31#8 then some .bnext
  else none

/-- The command a word stands for, or why it stands for none (R52, R53, R55). -/
def decode (w : Half) : Except DecodeError Instr :=
  if opcodeOf w = 0x11#8 then .ok (.cspush (imm8Of w))
  else
    match implicitCommand (opcodeOf w) with
    | none => .error (.reservedOpcode (opcodeOf w))
    | some i =>
      if imm8Of w = 0#8 then .ok i else .error (.reservedImmediate (opcodeOf w) (imm8Of w))

/-- The opcode of a command, bits 7:0 of its word (R52). -/
def opcode : Instr → Byte
  | .nop => 0x00#8
  | .start => 0x01#8
  | .endPass => 0x02#8
  | .csclr => 0x10#8
  | .cspush _ => 0x11#8
  | .csrng => 0x12#8
  | .pmain => 0x20#8
  | .penc => 0x21#8
  | .eopen => 0x22#8
  | .pmeta => 0x23#8
  | .pdata => 0x24#8
  | .binit => 0x30#8
  | .bnext => 0x31#8

/-- The immediate of a command, bits 15:8 of its word: 0 for every command but `CSPUSH` (R53). -/
def immediate : Instr → Byte
  | .cspush imm8 => imm8
  | .nop | .start | .endPass | .csclr | .csrng | .pmain | .penc | .eopen | .pmeta | .pdata | .binit | .bnext => 0#8

/-- The command word of a command: `imm8` above the opcode (R51). -/
def encode (i : Instr) : Half := immediate i ++ opcode i

/-- The decoder read at the numbering of spec/opcode_table.json: a row is one 16-bit word, so bit 0 of `w` is bit 0 of
the command word and there is no later word (R51). -/
def decodeTableWord (nbits w : Nat) : Option Instr :=
  match decode (BitVec.ofNat 16 (w % 2 ^ nbits)) with
  | .ok i => some i
  | .error _ => none

end Sys2Proof
end

