-- ==== Sys2Proof/Config.lean ====
section
/-! DEFINITION. The parameters of the engine (00_scope.md section 4): what an implementation fixes and the spec
leaves open. An `opaque` constant has no body, so every statement holds for every value of it. -/

namespace Sys2Proof

/-- The request the engine makes of the authenticated-decryption primitive, once per `EOPEN` (R85): every element a
byte sequence, passed unchanged and in file order. -/
structure AeadRequest where
  key : Vector Byte 32
  nonce : Vector Byte 24
  tag : Vector Byte 16
  ct : List Byte
  aad : List Byte
  deriving DecidableEq, Repr

/-- The primitive's reply (R86): `AuthFailure` or `Plaintext(p)`. -/
inductive AeadReply where
  | authFailure
  | plaintext (p : List Byte)
  deriving DecidableEq, Repr, Inhabited

/-- How far `AW` is above its least value (R1). The spec fixes only `AW >= 17` (log 3). -/
opaque Config.awAbove17 : Nat

/-- `AW`, the width in bits of an offset into FILE: any number from 17 on (R1; log 3). -/
def Config.aw : Nat := 17 + Config.awAbove17

/-- `MAGIC` (R2, U1; log 11). -/
def Config.magic : Word := 0x19345601#32

/-- `MAIN_SIZE` (R3). -/
def Config.mainSize : Nat := 12
/-- `ENC_SIZE` (R3). -/
def Config.encSize : Nat := 30
/-- `AAD_SIZE = MAIN_SIZE + ENC_SIZE = 42` (R3). -/
def Config.aadSize : Nat := Config.mainSize + Config.encSize
/-- `TAG_SIZE` (R3). -/
def Config.tagSize : Nat := 16
/-- `KEYMAT_SIZE` (R3). -/
def Config.keymatSize : Nat := 32
/-- `META_FIXED` (R3). -/
def Config.metaFixed : Nat := 4
/-- `DATA_SIZE` (R3). -/
def Config.dataSize : Nat := 12
/-- `BLKHDR_SIZE` (R3). -/
def Config.blkhdrSize : Nat := 8

/-- The position of the bit `MAIN_F_META` selects: no source gives it (R4, D18; log 12). -/
opaque Config.mainFMetaBit : Fin 8
/-- The position of the bit `MAIN_F_ENC` selects (R4, D18; log 12). -/
opaque Config.mainFEncBit : Fin 8
/-- The position of the bit `BLK_F_ENC` selects (R4, D18; log 12). -/
opaque Config.blkFEncBit : Fin 8
/-- The position of the bit `BLK_F_COMP` selects (R4, D18; log 12). -/
opaque Config.blkFCompBit : Fin 8
/-- The position of the bit `BLK_F_LAST` selects (R4, D18; log 12). -/
opaque Config.blkFLastBit : Fin 8

/-- An 8-bit one-hot mask (R4). -/
def Config.oneHot (bit : Fin 8) : Byte := 1#8 <<< bit.val

/-- "meta-extension present" in `MainHeader.flags` (R4). No command reads it. -/
def Config.mainFMeta : Byte := Config.oneHot Config.mainFMetaBit
/-- "encryption-extension present" in `MainHeader.flags` (R4). No command reads it. -/
def Config.mainFEnc : Byte := Config.oneHot Config.mainFEncBit
/-- "encrypted" in `DataBlock.flags` (R4). Only the collaborator's contract reads it (R113). -/
def Config.blkFEnc : Byte := Config.oneHot Config.blkFEncBit
/-- "compressed" in `DataBlock.flags` (R4). Only the collaborator's contract reads it (R113). -/
def Config.blkFComp : Byte := Config.oneHot Config.blkFCompBit
/-- "last" in `DataBlock.flags` (R4): informational only (R104). -/
def Config.blkFLast : Byte := Config.oneHot Config.blkFLastBit

/-- `AeadOpen` (R5, R86): a total function of its five arguments and of nothing else, of which nothing more is
assumed (log 4). -/
opaque Config.aeadOpen : AeadRequest → AeadReply

/-- The collaborator's stream cipher `transform(key[32], nonce[24], data)` (R114); `none` is its failure (log 13). -/
opaque Config.streamXform : Vector Byte 32 → Vector Byte 24 → List Byte → Option (List Byte)

/-- The collaborator's `decompress(compressedBytes, maxOutputSize)` (R114); `none` is its failure (log 13). -/
opaque Config.decompress : List Byte → Nat → Option (List Byte)

end Sys2Proof
end

