-- ==== Sys2Proof/Machine/State.lean ====
section
/-! DEFINITION. The state of the machine: the engine's architectural state exactly as R6 lists it, the inputs it
reads (FILE, the launch inputs, the primitive), and the moves the host will still make. -/

namespace Sys2Proof.Machine

/-- A byte memory: the bytes that are not 0, by rising offset (log 6). -/
abbrev Memory := List Host.Cell

/-- `MAIN_*` (R14): the fields of the MainHeader (R43). -/
structure MainHeader where
  magic : Word
  paysz : Word
  fhsz : Half
  flags : Byte
  cs : Byte
  deriving DecidableEq, Repr

/-- `ENC_*` (R15): the fields of the EncryptionHeader (R44). -/
structure EncHeader where
  nonce : Vector Byte 24
  epsz : Half
  ehsz : Half
  flags : Byte
  cs : Byte
  deriving DecidableEq, Repr

/-- `META_*` (R19): the fixed part of the MetaHeader (R47). -/
structure MetaHeader where
  id : Half
  paysz : Half
  deriving DecidableEq, Repr

/-- `DATA_*` (R20): the fields of the DataHeader (R48). -/
structure DataHeader where
  total : Word
  maxblk : Half
  flags : Byte
  rsvd : Byte
  fullcs : Word
  deriving DecidableEq, Repr

/-- `BLK_*` (R25) but `BLK_OFF`: the fields of a DataBlock's header (R49). -/
structure BlockHeader where
  num : Half
  paysz : Half
  paycs : Half
  flags : Byte
  hcs : Byte
  deriving DecidableEq, Repr

/-- `ERR_*` (R27): the structured error. -/
structure ErrRecord where
  kind : BitVec 3
  struct : BitVec 3
  off : Nat
  exp : Word
  act : Nat
  deriving DecidableEq, Repr

/-- The error kinds (R118). -/
inductive ErrKind where
  | truncatedInput
  | badMagic
  | checksumMismatch
  | decryptionFailed
  | decompressionFailed
  | sequenceMismatch
  deriving DecidableEq, Repr

/-- The structures an error names (R119). -/
inductive ErrStruct where
  | main
  | enc
  | blob
  | inner
  | metaHdr
  | data
  | block
  deriving DecidableEq, Repr

/-- The architectural state of the engine, exactly that of R6: rules R7 to R11, R14 to R25 and R27. Offsets, lengths and
counts are natural numbers (R1); that they fit their registers is the invariant `Engine.Fits` of Safety.lean (their
widths: log 21). -/
structure Engine where
  /-- `RUN` (R7). -/
  run : Bool
  /-- `ILL` (R7). -/
  ill : Bool
  /-- `FLEN` (R8). -/
  flen : Nat
  /-- `KEY` (R9), secret. -/
  key : Vector Byte 32
  /-- `KEYV` (R9). -/
  keyv : Bool
  /-- `ARG0` (R10). -/
  arg0 : Nat
  /-- `ARG1` (R10). -/
  arg1 : Nat
  /-- `ACC8` (R11). -/
  acc8 : Byte
  /-- `ACC16` (R11). -/
  acc16 : Half
  /-- `MAINV` (R14). -/
  mainv : Bool
  /-- `MAIN_*` (R14). -/
  mainH : MainHeader
  /-- `ENCV` (R15). -/
  encv : Bool
  /-- `ENC_*` (R15). -/
  encH : EncHeader
  /-- `OPENV` (R16). -/
  openv : Bool
  /-- `ENV_TAG` (R16). -/
  envTag : Vector Byte 16
  /-- `KEYMAT` (R17), secret. -/
  keymat : Vector Byte 32
  /-- `PIH` (R18). -/
  pih : Memory
  /-- `PIHLEN` (R18). -/
  pihlen : Half
  /-- `METAV` (R19). -/
  metav : Bool
  /-- `META_*` (R19). -/
  metaH : MetaHeader
  /-- `DATAV` (R20). -/
  datav : Bool
  /-- `DATA_*` (R20). -/
  dataH : DataHeader
  /-- `BACT` (R21). -/
  bact : Bool
  /-- `BEND` (R21). -/
  bend : Bool
  /-- `BLKV` (R21). -/
  blkv : Bool
  /-- `PREVV` (R22). -/
  prevv : Bool
  /-- `PREV_NUM` (R22). -/
  prevNum : Half
  /-- `BCOUNT` (R23). -/
  bcount : Nat
  /-- `CUR` (R24). -/
  cur : Nat
  /-- `BLK_OFF` (R25). -/
  blkOff : Nat
  /-- `BLK_*` (R25). -/
  blkH : BlockHeader
  /-- `ERRF` (R27). -/
  errf : Bool
  /-- `ERR_*` (R27). -/
  err : ErrRecord
  deriving DecidableEq, Repr

/-- What the engine reads and is not its state (R12, R13, R5): the FILE memory, the launch inputs and the primitive.
Held in State because a step has no other argument (log 1). -/
structure Env where
  /-- `FILE` (R12). -/
  file : Memory
  /-- The length of the memory behind FILE (R12, R137). -/
  fileLen : Nat
  /-- `FLEN_IN` (R13). -/
  flenIn : Nat
  /-- `KEY_PRESENT` (R13). -/
  keyPresent : Bool
  /-- `KEY_IN` (R13). -/
  keyIn : Vector Byte 32
  /-- Replies of the primitive that are fixed; to any other request `Config.aeadOpen` replies (R5, R86; log 4). -/
  aead : List (AeadRequest × AeadReply)
  deriving DecidableEq, Repr

/-- One thing the host does between two commands (R29, R137; log 2). -/
inductive HostMove where
  /-- Write `v` to the register of number `reg`; 0 is `CMD` (R29). -/
  | write (reg v : Nat)
  /-- Read the register of number `reg`; `i` is the byte's index in the PIH window and unused elsewhere (R29). -/
  | read (reg i : Nat)
  /-- Drive the launch inputs (R13, R137 step 3). -/
  | drive (flenIn : Nat) (keyPresent : Bool) (keyIn : Vector Byte 32)
  /-- Place a whole file in FILE (R12, R137 step 2). -/
  | place (bytes : List Byte)
  /-- Assert the reset input (R135). -/
  | reset
  deriving DecidableEq, Repr

/-- The machine: the engine, its inputs, and the moves the host will still make, the next one first. -/
structure State where
  eng : Engine
  env : Env
  host : List HostMove
  deriving DecidableEq, Repr

/-- Where the model has no move (U17). No command raises a fault; only a move of the host does. -/
inductive Fault where
  /-- Raised by a host move that places FILE while `RUN = 1` (R138, U17; log 8). Safe: the model stops. -/
  | fileChangedDuringPass
  /-- Raised by a host move that issues `START` with `FLEN_IN` above the length of FILE (R137, U17; log 7). Safe: the
  model stops. -/
  | flenBeyondFile
  /-- Raised by a host move that writes or drives a value wider than the register or input it goes to (R13, R29;
  log 9). Safe: the model stops. -/
  | valueTooWide
  deriving DecidableEq, Repr

/-- What the model gives no meaning. -/
inductive Refusal where
  /-- The command of this mnemonic has no meaning yet; no arm of `exec` answers it. Safe: the model stops. What the
  spec calls a refused command (R55) is a next state with `ILL = 1`, not this. -/
  | notModelled (mnemonic : String)
  deriving DecidableEq, Repr

/-- The reset state of the engine: every flag and register 0, every byte array all zero bytes (R135, R136). -/
def Engine.reset : Engine where
  run := false
  ill := false
  flen := 0
  key := Vector.replicate 32 0#8
  keyv := false
  arg0 := 0
  arg1 := 0
  acc8 := 0#8
  acc16 := 0#16
  mainv := false
  mainH := { magic := 0#32, paysz := 0#32, fhsz := 0#16, flags := 0#8, cs := 0#8 }
  encv := false
  encH := { nonce := Vector.replicate 24 0#8, epsz := 0#16, ehsz := 0#16, flags := 0#8, cs := 0#8 }
  openv := false
  envTag := Vector.replicate 16 0#8
  keymat := Vector.replicate 32 0#8
  pih := []
  pihlen := 0#16
  metav := false
  metaH := { id := 0#16, paysz := 0#16 }
  datav := false
  dataH := { total := 0#32, maxblk := 0#16, flags := 0#8, rsvd := 0#8, fullcs := 0#32 }
  bact := false
  bend := false
  blkv := false
  prevv := false
  prevNum := 0#16
  bcount := 0
  cur := 0
  blkOff := 0
  blkH := { num := 0#16, paysz := 0#16, paycs := 0#16, flags := 0#8, hcs := 0#8 }
  errf := false
  err := { kind := 0#3, struct := 0#3, off := 0, exp := 0#32, act := 0 }

/-- The inputs before the host has done anything. R136 gives them no reset value: DESIGN CHOICE, an empty FILE, no key,
length 0, no fixed reply (log 5). -/
def Env.none : Env where
  file := []
  fileLen := 0
  flenIn := 0
  keyPresent := false
  keyIn := Vector.replicate 32 0#8
  aead := []

/-- The machine right after reset (R135, R136), with nothing placed and no host move to come (log 5). -/
def State.reset : State where
  eng := Engine.reset
  env := Env.none
  host := []

end Sys2Proof.Machine
end

