-- ==== Sys2Proof/Machine/Operands.lean ====
section
/-! DEFINITION. Every way a command obtains a value: the reads of the two byte memories (R31, R32), little-endian
conversion (R33), the fields of the five records (R43 to R49), the checksum functions (R65, R66) and the frame of the
envelope (R82, R83, R85). -/

namespace Sys2Proof.Machine

/-- The byte at offset `a`; an unlisted byte is 0 (log 6). -/
def Memory.read : Memory → Nat → Byte
  | [], _ => 0#8
  | (b, v) :: m, a => if a = b then v else Memory.read m a

/-- The `n` bytes from offset `off` on, in that order (R31, R32). -/
def Memory.bytes (m : Memory) (off : Nat) : Nat → List Byte
  | 0 => []
  | n + 1 => m.read off :: m.bytes (off + 1) n

/-- The memory that holds the given bytes from offset `off` on, and nothing else. -/
def Memory.ofBytes (off : Nat) : List Byte → Memory
  | [] => []
  | b :: s => if b = 0#8 then Memory.ofBytes (off + 1) s else (off, b) :: Memory.ofBytes (off + 1) s

/-- Canonical form from offset `lo` on: offsets strictly rising, no listed byte 0. -/
def Memory.wfFrom (lo : Nat) : Memory → Bool
  | [] => true
  | (a, b) :: m => decide (lo ≤ a) && (b != 0#8) && Memory.wfFrom (a + 1) m

/-- The one canonical form of a memory (log 6). -/
def Memory.wf (m : Memory) : Bool := Memory.wfFrom 0 m

/-- `s[i]`, for an `i` inside the sequence. -/
def byteAt (s : List Byte) (i : Nat) : Byte := s.getD i 0#8

/-- `s[a, b)` (00_scope.md section 5). -/
def slice (s : List Byte) (a b : Nat) : List Byte := (s.drop a).take (b - a)

/-- A byte array of fixed length: byte `i` of the array is `s[i]` (R34). -/
def byteArray (n : Nat) (s : List Byte) : Vector Byte n := Vector.ofFn fun i => byteAt s i.val

/-- The little-endian number a byte sequence stands for (R33). -/
def leNat : List Byte → Nat
  | [] => 0
  | b :: s => b.toNat + 256 * leNat s

/-- `le16` (R33). -/
def le16 (s : List Byte) : Half := BitVec.ofNat 16 (leNat s)

/-- `le32` (R33). -/
def le32 (s : List Byte) : Word := BitVec.ofNat 32 (leNat s)

/-- `rotr8` (R65): rotate right by one bit within 8 bits. -/
def rotr8 (cs : Byte) : Byte := (cs >>> 1) ||| ((cs &&& 1#8) <<< 7)

/-- `rotr16` (R65): rotate right by one bit within 16 bits. -/
def rotr16 (cs : Half) : Half := (cs >>> 1) ||| ((cs &&& 1#16) <<< 15)

/-- `step8` (R65): the addition wraps modulo 256. -/
def step8 (cs : Byte) (b : Byte) : Byte := rotr8 cs + b

/-- `step16` (R65): the byte is zero-extended, the addition wraps modulo 65536. -/
def step16 (cs : Half) (b : Byte) : Half := rotr16 cs + b.setWidth 16

/-- `fold8` (R66). -/
def fold8 (c : Byte) (s : List Byte) : Byte := s.foldl step8 c

/-- `fold16` (R66). -/
def fold16 (c : Half) (s : List Byte) : Half := s.foldl step16 c

/-- `csum8` (R66). -/
def csum8 (s : List Byte) : Byte := fold8 0#8 s

/-- `csum16` (R66). -/
def csum16 (s : List Byte) : Half := fold16 0#16 s

/-- The fields of a MainHeader of 12 bytes (R43). -/
def parseMain (h : List Byte) : MainHeader where
  magic := le32 (slice h 0 4)
  paysz := le32 (slice h 4 8)
  fhsz := le16 (slice h 8 10)
  flags := byteAt h 10
  cs := byteAt h 11

/-- The fields of an EncryptionHeader of 30 bytes (R44). -/
def parseEnc (h : List Byte) : EncHeader where
  nonce := byteArray 24 (slice h 0 24)
  epsz := le16 (slice h 24 26)
  ehsz := le16 (slice h 26 28)
  flags := byteAt h 28
  cs := byteAt h 29

/-- The fixed part of a MetaHeader, 4 bytes (R47). -/
def parseMeta (p : List Byte) : MetaHeader where
  id := le16 (slice p 0 2)
  paysz := le16 (slice p 2 4)

/-- The fields of a DataHeader of 12 bytes (R48). -/
def parseData (d : List Byte) : DataHeader where
  total := le32 (slice d 0 4)
  maxblk := le16 (slice d 4 6)
  flags := byteAt d 6
  rsvd := byteAt d 7
  fullcs := le32 (slice d 8 12)

/-- The fields of a DataBlock's 8-byte header (R49). -/
def parseBlock (b : List Byte) : BlockHeader where
  num := le16 (slice b 0 2)
  paysz := le16 (slice b 2 4)
  paycs := le16 (slice b 4 6)
  flags := byteAt b 6
  hcs := byteAt b 7

/-- `MemRead(FILE, off, n)` (R31). Every caller has tested `off + n <= FLEN` first. -/
def Env.fileBytes (env : Env) (off n : Nat) : List Byte := env.file.bytes off n

/-- `MemRead(PIH, off, n)` (R32). Every caller has tested `off + n <= PIHLEN` first. -/
def Engine.pihBytes (e : Engine) (off n : Nat) : List Byte := e.pih.bytes off n

/-- `ehs`, the value of `ENC_EHSZ` (R44). -/
def Engine.ehs (e : Engine) : Nat := e.encH.ehsz.toNat

/-- Where the block stream begins: `12 + 30 + ENC_EHSZ + 16` (R100). -/
def Engine.streamStart (e : Engine) : Nat := Config.aadSize + e.ehs + Config.tagSize

/-- The number of bytes the EncryptedBlob needs (R45). -/
def Engine.blobSize (e : Engine) : Nat := e.ehs + Config.tagSize

/-- The ciphertext, `FILE[42, 42 + ehs)` (R82). -/
def envelopeCt (env : Env) (e : Engine) : List Byte := env.fileBytes Config.aadSize e.ehs

/-- The MAC tag, `FILE[42 + ehs, 58 + ehs)` (R82). -/
def envelopeTag (env : Env) (e : Engine) : Vector Byte 16 :=
  byteArray 16 (env.fileBytes (Config.aadSize + e.ehs) Config.tagSize)

/-- The associated data, `FILE[0, 42)` (R83). -/
def envelopeAad (env : Env) : List Byte := env.fileBytes 0 Config.aadSize

/-- The request of `EOPEN` (R85). -/
def envelopeRequest (env : Env) (e : Engine) : AeadRequest where
  key := e.key
  nonce := e.encH.nonce
  tag := envelopeTag env e
  ct := envelopeCt env e
  aad := envelopeAad env

/-- The reply fixed for a request, if one is. -/
def fixedReply : List (AeadRequest × AeadReply) → AeadRequest → Option AeadReply
  | [], _ => none
  | (q, r) :: rest, req => if q = req then some r else fixedReply rest req

/-- `AeadOpen` (R5, R86): the same request gets the same reply (log 4). -/
def Env.aeadOpen (env : Env) (req : AeadRequest) : AeadReply :=
  (fixedReply env.aead req).getD (Config.aeadOpen req)

end Sys2Proof.Machine
end

