-- ==== Sys2Proof/Machine/Flags.lean ====
section
/-! DEFINITION. Everything the engine computes from flags: the preconditions of the commands (R59) and the STATUS
word (R28). -/

namespace Sys2Proof.Machine

/-- A decode command can run at all: `RUN = 1` and `ERRF = 0` (R59). -/
def Engine.decoding (e : Engine) : Bool := e.run && !e.errf

/-- The precondition of each command (R59). -/
def precondition (i : Instr) (e : Engine) : Bool :=
  match i with
  | .nop => true
  | .start => true
  | .endPass => true
  | .csclr => true
  | .cspush _ => true
  | .csrng => e.run && decide (e.arg0 + e.arg1 ≤ e.flen)
  | .pmain => e.decoding && !e.mainv
  | .penc => e.decoding && e.mainv && !e.encv
  | .eopen => e.decoding && e.encv && e.keyv && !e.openv
  | .pmeta => e.decoding && e.openv && !e.metav
  | .pdata => e.decoding && e.metav && !e.datav
  | .binit => e.decoding && e.encv
  | .bnext => e.decoding && e.bact

/-- The number whose bit `k` is flag `k` of the list. -/
def bitsToNat : List Bool → Nat
  | [] => 0
  | b :: bs => b.toNat + 2 * bitsToNat bs

/-- The twelve flags of STATUS, bit 0 first (R28). -/
def Engine.statusFlags (e : Engine) : List Bool :=
  [e.run, e.keyv, e.mainv, e.encv, e.openv, e.metav, e.datav, e.bact, e.blkv, e.bend, e.errf, e.ill]

/-- The STATUS word; bits 31:12 are zero (R28, U14). -/
def Engine.status (e : Engine) : Word := BitVec.ofNat 32 (bitsToNat e.statusFlags)

end Sys2Proof.Machine
end

