-- ==== Sys2Proof/Machine/Ops.lean ====
section
/-! DEFINITION. The operations every command is made of: the error entry (R117), refusal (R55), and the frame of an
atomic command (R58). There is no return from an error: `START`, `END` and reset are the only exits (R122). -/

namespace Sys2Proof.Machine

/-- The code of an error kind in `ERR_KIND` (R118). -/
def ErrKind.code : ErrKind → BitVec 3
  | .truncatedInput => 1#3
  | .badMagic => 2#3
  | .checksumMismatch => 3#3
  | .decryptionFailed => 4#3
  | .decompressionFailed => 5#3
  | .sequenceMismatch => 6#3

/-- The code of a structure in `ERR_STRUCT` (R119). -/
def ErrStruct.code : ErrStruct → BitVec 3
  | .main => 1#3
  | .enc => 2#3
  | .blob => 3#3
  | .inner => 4#3
  | .metaHdr => 5#3
  | .data => 6#3
  | .block => 7#3

/-- The error entry, `raise Kind(STRUCT, off, exp, act)` (R117): eight writes and no other. -/
def raise (kind : ErrKind) (struct : ErrStruct) (off exp act : Nat) (e : Engine) : Engine :=
  { e with
    err := { kind := kind.code, struct := struct.code, off := off, exp := BitVec.ofNat 32 exp, act := act }
    errf := true
    bact := false
    blkv := false }

/-- `refuse`: the single effect `ILL <- 1` (R55, R124). -/
def refuse (e : Engine) : Engine := { e with ill := true }

/-- The frame of every command (R58): test the precondition (R59); refuse if it fails; otherwise all the command's
writes together. `effect` is the engine after the command, computed from the inputs and the engine before it. -/
def runCommand (i : Instr) (effect : Env → Engine → Engine) (s : State) : Host.Outcome State Fault Refusal :=
  .next { s with eng := if precondition i s.eng then effect s.env s.eng else refuse s.eng }

end Sys2Proof.Machine
end

