-- ==== Sys2Proof/Machine/Checksum.lean ====
section
/-! DEFINITION. The checksum commands `CSCLR`, `CSPUSH`, `CSRNG` (41_checksum.md). -/

namespace Sys2Proof.Machine

/-- Both accumulators absorb a byte sequence, continuing from where they are (R68, R69). -/
def absorb (s : List Byte) (e : Engine) : Engine :=
  { e with acc8 := fold8 e.acc8 s, acc16 := fold16 e.acc16 s }

/-- `CSCLR` (R67). -/
def execCsclr (s : State) : Host.Outcome State Fault Refusal :=
  runCommand .csclr (fun _ e => { e with acc8 := 0#8, acc16 := 0#16 }) s

/-- `CSPUSH imm8` (R68). -/
def execCspush (imm8 : Byte) (s : State) : Host.Outcome State Fault Refusal :=
  runCommand (.cspush imm8) (fun _ e => absorb [imm8] e) s

/-- `CSRNG` (R69): the bytes `FILE[ARG0, ARG0 + ARG1)`. -/
def execCsrng (s : State) : Host.Outcome State Fault Refusal :=
  runCommand .csrng (fun env e => absorb (env.fileBytes e.arg0 e.arg1) e) s

end Sys2Proof.Machine
end

