-- ==== Sys2Proof/Machine/Container.lean ====
section
/-! DEFINITION. The container header parser, `PMAIN` (42_container_header.md). -/

namespace Sys2Proof.Machine

/-- `PMAIN` once its precondition holds (R75): length, then magic, then checksum, then the fields. -/
def pmainEffect (env : Env) (e : Engine) : Engine :=
  if e.flen < Config.mainSize then
    raise .truncatedInput .main 0 Config.mainSize e.flen e
  else
    let h := env.fileBytes 0 Config.mainSize
    let magic := le32 (slice h 0 4)
    let c := csum8 (slice h 0 11)
    if magic ≠ Config.magic then
      raise .badMagic .main 0 Config.magic.toNat magic.toNat e
    else if c ≠ byteAt h 11 then
      raise .checksumMismatch .main 11 c.toNat (byteAt h 11).toNat e
    else
      { e with mainH := parseMain h, mainv := true }

/-- `PMAIN` (R75). -/
def execPmain (s : State) : Host.Outcome State Fault Refusal := runCommand .pmain pmainEffect s

end Sys2Proof.Machine
end

