-- ==== Sys2Proof/Machine/Control.lean ====
section
/-! DEFINITION. The control commands `NOP`, `START`, `END` (40_control.md). -/

namespace Sys2Proof.Machine

/-- `NOP` changes nothing (R62). -/
def execNop (s : State) : Host.Outcome State Fault Refusal := runCommand .nop (fun _ e => e) s

/-- The engine a pass begins with: the reset state, then `RUN`, `FLEN`, `KEYV` and `KEY` from the launch inputs (R60). -/
def startEffect (env : Env) (_ : Engine) : Engine :=
  { Engine.reset with
    run := true
    flen := env.flenIn
    keyv := env.keyPresent
    key := if env.keyPresent then env.keyIn else Vector.replicate 32 0#8 }

/-- `START` (R60). -/
def execStart (s : State) : Host.Outcome State Fault Refusal := runCommand .start startEffect s

/-- `END`: the state after it is the state after reset (R61, R135). -/
def execEnd (s : State) : Host.Outcome State Fault Refusal := runCommand .endPass (fun _ _ => Engine.reset) s

end Sys2Proof.Machine
end

