-- ==== Sys2Proof/Machine/Envelope.lean ====
section
/-! DEFINITION. The encryption envelope, `PENC` and `EOPEN` (43_envelope.md). -/

namespace Sys2Proof.Machine

/-- `PENC` once its precondition holds (R80): length, then checksum, then the fields. -/
def pencEffect (env : Env) (e : Engine) : Engine :=
  let avail := e.flen - Config.mainSize
  if avail < Config.encSize then
    raise .truncatedInput .enc Config.mainSize Config.encSize avail e
  else
    let h := env.fileBytes Config.mainSize Config.encSize
    let c := csum8 (slice h 0 29)
    if c ≠ byteAt h 29 then
      raise .checksumMismatch .enc 41 c.toNat (byteAt h 29).toNat e
    else
      { e with encH := parseEnc h, encv := true }

/-- `PENC` (R80). -/
def execPenc (s : State) : Host.Outcome State Fault Refusal := runCommand .penc pencEffect s

/-- What `EOPEN` does with the primitive's reply (R87, R88): the verdict is final; a plaintext of the wrong length or
too short for the key material is an error; otherwise it is split into `KEYMAT` and `PIH` (R46). -/
def acceptReply (tag : Vector Byte 16) (reply : AeadReply) (e : Engine) : Engine :=
  match reply with
  | .authFailure => raise .decryptionFailed .blob Config.aadSize 0 0 e
  | .plaintext p =>
    if p.length ≠ e.ehs then
      raise .decryptionFailed .blob Config.aadSize e.ehs (p.length % 2 ^ 32) e
    else if e.ehs < Config.keymatSize then
      raise .truncatedInput .inner 0 Config.keymatSize e.ehs e
    else
      { e with
        envTag := tag
        keymat := byteArray 32 (slice p 0 Config.keymatSize)
        pih := Memory.ofBytes 0 (slice p Config.keymatSize e.ehs)
        pihlen := BitVec.ofNat 16 (e.ehs - Config.keymatSize)
        openv := true }

/-- `EOPEN` once its precondition holds (R88): a truncated blob never reaches the primitive. -/
def eopenEffect (env : Env) (e : Engine) : Engine :=
  let avail := e.flen - Config.aadSize
  if avail < e.blobSize then
    raise .truncatedInput .blob Config.aadSize e.blobSize avail e
  else
    acceptReply (envelopeTag env e) (env.aeadOpen (envelopeRequest env e)) e

/-- `EOPEN` (R88). -/
def execEopen (s : State) : Host.Outcome State Fault Refusal := runCommand .eopen eopenEffect s

end Sys2Proof.Machine
end

