-- ==== Sys2Proof/Machine/Inner.lean ====
section
/-! DEFINITION. The inner header parser, `PMETA` and `PDATA` (44_inner_headers.md). Both read PIH only (R93). -/

namespace Sys2Proof.Machine

/-- `PMETA` once its precondition holds (R94): the fixed part, then the payload's room; the payload is not read. -/
def pmetaEffect (_ : Env) (e : Engine) : Engine :=
  let len := e.pihlen.toNat
  if len < Config.metaFixed then
    raise .truncatedInput .metaHdr 0 Config.metaFixed len e
  else
    let p := parseMeta (e.pihBytes 0 Config.metaFixed)
    if len - Config.metaFixed < p.paysz.toNat then
      raise .truncatedInput .metaHdr Config.metaFixed p.paysz.toNat (len - Config.metaFixed) e
    else
      { e with metaH := p, metav := true }

/-- `PMETA` (R94). -/
def execPmeta (s : State) : Host.Outcome State Fault Refusal := runCommand .pmeta pmetaEffect s

/-- The PIH offset of the DataHeader, `4 + META_PAYSZ` (R48). -/
def Engine.dataOffset (e : Engine) : Nat := Config.metaFixed + e.metaH.paysz.toNat

/-- `PDATA` once its precondition holds (R95): reserved fields are stored, trailing bytes ignored (R96, R98). -/
def pdataEffect (_ : Env) (e : Engine) : Engine :=
  let avail := e.pihlen.toNat - e.dataOffset
  if avail < Config.dataSize then
    raise .truncatedInput .data e.dataOffset Config.dataSize avail e
  else
    { e with dataH := parseData (e.pihBytes e.dataOffset Config.dataSize), datav := true }

/-- `PDATA` (R95). -/
def execPdata (s : State) : Host.Outcome State Fault Refusal := runCommand .pdata pdataEffect s

end Sys2Proof.Machine
end

