-- ==== Sys2Proof/Machine/Stream.lean ====
section
/-! DEFINITION. The block-stream framer and sequence validator, `BINIT` and `BNEXT` (45_block_stream.md). -/

namespace Sys2Proof.Machine

/-- `BINIT` once its precondition holds (R101). It reads no byte of FILE. -/
def binitEffect (_ : Env) (e : Engine) : Engine :=
  if e.flen < e.streamStart then
    raise .truncatedInput .blob Config.aadSize e.blobSize (e.flen - Config.aadSize) e
  else
    { e with
      cur := e.streamStart
      prevv := false
      prevNum := 0#16
      bcount := 0
      blkv := false
      blkOff := 0
      blkH := { num := 0#16, paysz := 0#16, paycs := 0#16, flags := 0#8, hcs := 0#8 }
      bend := false
      bact := true }

/-- `BINIT` (R101). -/
def execBinit (s : State) : Host.Outcome State Fault Refusal := runCommand .binit binitEffect s

/-- The writes of a `BNEXT` that yields the block whose header is `b` (R102). -/
def yieldBlock (b : BlockHeader) (e : Engine) : Engine :=
  { e with
    blkOff := e.cur
    blkH := b
    blkv := true
    prevv := true
    prevNum := b.num
    bcount := e.bcount + 1
    cur := e.cur + Config.blkhdrSize + b.paysz.toNat }

/-- `BNEXT` once its precondition holds (R102): clean end, or header length, header checksum, payload length and
sequence in that order (R121), or the block. The sequence check is on natural numbers (R103). -/
def bnextEffect (env : Env) (e : Engine) : Engine :=
  let rem := e.flen - e.cur
  if rem = 0 then
    { e with bact := false, bend := true, blkv := false }
  else if rem < Config.blkhdrSize then
    raise .truncatedInput .block e.cur Config.blkhdrSize rem e
  else
    let b := env.fileBytes e.cur Config.blkhdrSize
    let h := parseBlock b
    let c := csum8 (slice b 0 7)
    if c ≠ h.hcs then
      raise .checksumMismatch .block (e.cur + 7) c.toNat h.hcs.toNat e
    else if rem - Config.blkhdrSize < h.paysz.toNat then
      raise .truncatedInput .block (e.cur + Config.blkhdrSize) h.paysz.toNat (rem - Config.blkhdrSize) e
    else if e.prevv = true ∧ h.num.toNat ≠ e.prevNum.toNat + 1 then
      raise .sequenceMismatch .block e.cur (e.prevNum.toNat + 1) h.num.toNat e
    else
      yieldBlock h e

/-- `BNEXT` (R102). -/
def execBnext (s : State) : Host.Outcome State Fault Refusal := runCommand .bnext bnextEffect s

end Sys2Proof.Machine
end

