-- ==== Sys2Proof/Machine/Dispatch.lean ====
section
/-! DEFINITION. One arm per command: its meaning (R52). -/

namespace Sys2Proof.Machine

def exec (i : Instr) (s : State) : Host.Outcome State Fault Refusal :=
  match i with
  | .nop => Sys2Proof.Machine.execNop s
  | .start => Sys2Proof.Machine.execStart s
  | .endPass => Sys2Proof.Machine.execEnd s
  | .csclr => Sys2Proof.Machine.execCsclr s
  | .cspush imm8 => Sys2Proof.Machine.execCspush imm8 s
  | .csrng => Sys2Proof.Machine.execCsrng s
  | .pmain => Sys2Proof.Machine.execPmain s
  | .penc => Sys2Proof.Machine.execPenc s
  | .eopen => Sys2Proof.Machine.execEopen s
  | .pmeta => Sys2Proof.Machine.execPmeta s
  | .pdata => Sys2Proof.Machine.execPdata s
  | .binit => Sys2Proof.Machine.execBinit s
  | .bnext => Sys2Proof.Machine.execBnext s

end Sys2Proof.Machine
end

