-- ==== Sys2Proof/Machine/HostPort.lean ====
section
/-! DEFINITION. What each move of the host does (R29, R137): a write to `CMD` executes a command, a write to `ARG0` or
`ARG1` sets an operand, and the rest acts on the inputs or on nothing. -/

namespace Sys2Proof.Machine

/-- A value of at most `AW + k` bits (R1). `AW` is at least 17, so the first test implies the second; it is there so
that small values are seen to fit without knowing `AW`. -/
def fitsOffset (k v : Nat) : Bool := decide (v < 2 ^ (17 + k)) || decide (v < 2 ^ (Config.aw + k))

/-- The value fits the register of that number: `CMD` has 16 bits, `ARG0` and `ARG1` have `AW + 1`; a write to any other
number is ignored, whatever its value (R10, R29, R51; log 9). DESIGN CHOICE: `AW + 1` is the width of R1, R10 and R53; D2 of
92_eei_decisions.md gives these registers `AW` bits (log 21). -/
def fitsRegister (reg v : Nat) : Bool :=
  if reg = 0 then decide (v < 2 ^ 16)
  else if reg = 2 then fitsOffset 1 v
  else if reg = 3 then fitsOffset 1 v
  else true

/-- The host writes a command word to `CMD` (R51): a word that decodes to no command is refused (R55 (a)). `START` with
`FLEN_IN` above the length of FILE is a host for which the model "has no move" (R137; log 7). -/
def issue (w : Half) (s : State) : Host.Outcome State Fault Refusal :=
  match decode w with
  | .error _ => .next { s with eng := refuse s.eng }
  | .ok i =>
    if i = .start ∧ s.env.fileLen < s.env.flenIn then .fault .flenBeyondFile
    else exec i s

/-- The host writes a value to a register by its number; only `CMD` (0), `ARG0` (2) and `ARG1` (3) are writable (R29). -/
def hostWrite (reg v : Nat) (s : State) : Host.Outcome State Fault Refusal :=
  if fitsRegister reg v then
    if reg = 0 then issue (BitVec.ofNat 16 v) s
    else if reg = 2 then .next { s with eng := { s.eng with arg0 := v } }
    else if reg = 3 then .next { s with eng := { s.eng with arg1 := v } }
    else .next s
  else .fault .valueTooWide

/-- The host drives the launch inputs; only `START` samples them (R13, U18). -/
def hostDrive (flenIn : Nat) (keyPresent : Bool) (keyIn : Vector Byte 32) (s : State) :
    Host.Outcome State Fault Refusal :=
  if fitsOffset 0 flenIn then
    .next { s with env := { s.env with flenIn := flenIn, keyPresent := keyPresent, keyIn := keyIn } }
  else .fault .valueTooWide

/-- The host places a whole file (R12); during a pass the model has no such move (R138, U17; log 8). -/
def hostPlace (bytes : List Byte) (s : State) : Host.Outcome State Fault Refusal :=
  if s.eng.run then .fault .fileChangedDuringPass
  else .next { s with env := { s.env with file := Memory.ofBytes 0 bytes, fileLen := bytes.length } }

/-- Reset puts the engine in the reset state (R135); the inputs are not its state (R136; log 15). -/
def hostReset (s : State) : Host.Outcome State Fault Refusal := .next { s with eng := Engine.reset }

/-- A host read has no side effect (R29). The value it returns is `hostRead` of Views.lean. -/
def hostReadMove (s : State) : Host.Outcome State Fault Refusal := .next s

/-- One move of the host (log 2). -/
def hostMove (m : HostMove) (s : State) : Host.Outcome State Fault Refusal :=
  match m with
  | .write reg v => hostWrite reg v s
  | .read _ _ => hostReadMove s
  | .drive flenIn keyPresent keyIn => hostDrive flenIn keyPresent keyIn s
  | .place bytes => hostPlace bytes s
  | .reset => hostReset s

/-- One step: the host's next move. With no move to come the engine is idle and holds its state (R129). -/
def nextMove (s : State) : Host.Outcome State Fault Refusal :=
  match s.host with
  | [] => .next s
  | m :: rest => hostMove m { s with host := rest }

/-- The state in which the host's next move is to write that word to `CMD` (R51). -/
def withCommandWord (s : State) (w : Nat) : State := { s with host := .write 0 w :: s.host }

end Sys2Proof.Machine
end

