-- ==== Sys2Proof/Machine/Step.lean ====
section
/-! DEFINITION. The step of the machine, and the placing of one command for the next step. -/

namespace Sys2Proof.Machine

/-- One step: the host's next move (R29, R58). -/
def step (s : State) : Host.Outcome State Fault Refusal := nextMove s

/-- The same state in which the next step issues the command whose word is `w` (R51): the engine fetches nothing, so
the word is put before the host's other moves (log 2). -/
def State.withFetchWord (s : State) (nbits w : Nat) : State := withCommandWord s (w % 2 ^ nbits)

end Sys2Proof.Machine
end

