-- ==== Sys2Proof/Machine/Pseudo.lean ====
section
/-! DEFINITION. The pseudo-commands (R57): sequences of host moves; the engine knows only the thirteen commands. -/

namespace Sys2Proof.Machine

/-- The host issues a command: it writes the command's word to `CMD` (R51). -/
def command (i : Instr) : HostMove := .write 0 (encode i).toNat

/-- `CSUM off, len` (R57). -/
def pseudoCsum (off len : Nat) : List HostMove := [.write 2 off, .write 3 len, command .csclr, command .csrng]

/-- `CSUMB b0, ..., bk` (R57). -/
def pseudoCsumb (bytes : List Byte) : List HostMove := command .csclr :: bytes.map fun b => command (.cspush b)

/-- `HEADERS` (R57). -/
def pseudoHeaders : List HostMove := [command .pmain, command .penc]

/-- `INNER` (R57). -/
def pseudoInner : List HostMove := [command .eopen, command .pmeta, command .pdata]

/-- `BNEXT` repeated, at most so many times, until `STATUS.BEND = 1` or `STATUS.ERRF = 1` (R57): the host reads STATUS
after each. -/
def bnextUntilDone : Nat → State → Host.Outcome State Fault Refusal
  | 0, s => .next s
  | k + 1, s =>
    if s.eng.bend || s.eng.errf then .next s
    else
      match exec .bnext s with
      | .next t => bnextUntilDone k t
      | .fault r => .fault r
      | .refused r => .refused r

/-- `BLOCKS` (R57), with at most so many `BNEXT`. -/
def pseudoBlocks (k : Nat) (s : State) : Host.Outcome State Fault Refusal :=
  match exec .binit s with
  | .next t => bnextUntilDone k t
  | .fault r => .fault r
  | .refused r => .refused r

/-- The commands of `DECODE` before its `BLOCKS` (R57): `START`, `HEADERS`, and `INNER` if a key is present. -/
def pseudoDecodeHead (keyPresent : Bool) : List HostMove :=
  command .start :: pseudoHeaders ++ (if keyPresent then pseudoInner else [])

end Sys2Proof.Machine
end

