-- ==== Sys2Proof/Machine/Views.lean ====
section
/-! DEFINITION. What can be seen of the engine from outside: the views (R26, R112), the host's reads (R29, R30) and the
transform-side outputs (R111). All are functions of the state, not state. -/

namespace Sys2Proof.Machine

/-- A view that "reads as 0" unless its flag is set (R26). -/
def gated (flag : Bool) (v : Nat) : Nat := if flag then v else 0

/-- `ENV_CTOFF` (R26). -/
def Engine.envCtOff (e : Engine) : Nat := gated e.encv 42

/-- `ENV_CTLEN` (R26). -/
def Engine.envCtLen (e : Engine) : Nat := gated e.encv e.encH.ehsz.toNat

/-- `ENV_TAGOFF` (R26). -/
def Engine.envTagOff (e : Engine) : Nat := gated e.encv (42 + e.encH.ehsz.toNat)

/-- `BLK_START` (R26, R100). -/
def Engine.blkStart (e : Engine) : Nat := gated e.encv (58 + e.encH.ehsz.toNat)

/-- `META_PAYOFF` (R26). -/
def Engine.metaPayOff (e : Engine) : Nat := gated e.metav 4

/-- `DATA_OFF` (R26). -/
def Engine.dataOff (e : Engine) : Nat := gated e.metav (4 + e.metaH.paysz.toNat)

/-- `BLK_PAYOFF` (R26). -/
def Engine.blkPayOff (e : Engine) : Nat := gated e.blkv (e.blkOff + 8)

/-- `BLK_SPAN` (R26). -/
def Engine.blkSpan (e : Engine) : Nat := gated e.blkv (8 + e.blkH.paysz.toNat)

/-- The nonce of a block number: its two bytes, low byte first, then 22 zero bytes (R112). -/
def nonceOf (num : Half) : Vector Byte 24 := byteArray 24 [num.extractLsb' 0 8, num.extractLsb' 8 8]

/-- `BLK_NONCE` (R26, R112); 24 zero bytes while `BLKV = 0` (log 16). -/
def Engine.blkNonce (e : Engine) : Vector Byte 24 :=
  if e.blkv then nonceOf e.blkH.num else Vector.replicate 24 0#8

/-- What a host read returns: a number, or the bytes of a byte-array register, which is never a number (R34). -/
inductive HostValue where
  | num (n : Nat)
  | bytes (s : List Byte)
  deriving DecidableEq, Repr

/-- `PIH[i]` through the PIH window; 0 at `i >= PIHLEN` (R29, U15). -/
def Engine.pihWindow (e : Engine) (i : Nat) : Byte := if i < e.pihlen.toNat then e.pih.read i else 0#8

/-- What the host reads at a register number, `i` being the index in the PIH window, number 64, and unused elsewhere
(R29; log 17). `CMD` and the unassigned numbers read 0 (U15, U16). `KEY` and `KEYMAT` have no number (R30). -/
def hostRead (e : Engine) (reg i : Nat) : HostValue :=
  match reg with
  | 1 => .num e.status.toNat
  | 2 => .num e.arg0
  | 3 => .num e.arg1
  | 4 => .num e.flen
  | 5 => .num e.acc8.toNat
  | 6 => .num e.acc16.toNat
  | 7 => .num e.err.kind.toNat
  | 8 => .num e.err.struct.toNat
  | 9 => .num e.err.off
  | 10 => .num e.err.exp.toNat
  | 11 => .num e.err.act
  | 12 => .num e.mainH.magic.toNat
  | 13 => .num e.mainH.paysz.toNat
  | 14 => .num e.mainH.fhsz.toNat
  | 15 => .num e.mainH.flags.toNat
  | 16 => .num e.mainH.cs.toNat
  | 17 => .bytes e.encH.nonce.toList
  | 18 => .num e.encH.epsz.toNat
  | 19 => .num e.encH.ehsz.toNat
  | 20 => .num e.encH.flags.toNat
  | 21 => .num e.encH.cs.toNat
  | 22 => .bytes e.envTag.toList
  | 23 => .num e.pihlen.toNat
  | 24 => .num e.metaH.id.toNat
  | 25 => .num e.metaH.paysz.toNat
  | 26 => .num e.dataH.total.toNat
  | 27 => .num e.dataH.maxblk.toNat
  | 28 => .num e.dataH.flags.toNat
  | 29 => .num e.dataH.rsvd.toNat
  | 30 => .num e.dataH.fullcs.toNat
  | 31 => .num e.cur
  | 32 => .num e.bcount
  | 33 => .num e.prevNum.toNat
  | 34 => .num e.blkOff
  | 35 => .num e.blkH.num.toNat
  | 36 => .num e.blkH.paysz.toNat
  | 37 => .num e.blkH.paycs.toNat
  | 38 => .num e.blkH.flags.toNat
  | 39 => .num e.blkH.hcs.toNat
  | 40 => .num e.envCtOff
  | 41 => .num e.envCtLen
  | 42 => .num e.envTagOff
  | 43 => .num e.blkStart
  | 44 => .num e.metaPayOff
  | 45 => .num e.dataOff
  | 46 => .num e.blkPayOff
  | 47 => .num e.blkSpan
  | 48 => .bytes e.blkNonce.toList
  | 64 => .num (e.pihWindow i).toNat
  | _ => .num 0

/-- The transform-side outputs (R111): the only path by which `KEYMAT` leaves the engine. -/
structure TransformOut where
  /-- `X_KEYMAT`, valid when `OPENV = 1`. -/
  keymat : Vector Byte 32
  /-- `X_MAXBLK`, valid when `DATAV = 1`. -/
  maxblk : Half
  /-- `X_NUM`, valid like the rest when `BLKV = 1`. -/
  num : Half
  /-- `X_FLAGS`. -/
  flags : Byte
  /-- `X_PAYOFF`. -/
  payoff : Nat
  /-- `X_PAYLEN`. -/
  paylen : Half
  /-- `X_NONCE`. -/
  nonce : Vector Byte 24
  deriving DecidableEq, Repr

/-- The transform-side outputs are read-only copies of state (R111). -/
def Engine.transformOut (e : Engine) : TransformOut where
  keymat := e.keymat
  maxblk := e.dataH.maxblk
  num := e.blkH.num
  flags := e.blkH.flags
  payoff := e.blkPayOff
  paylen := e.blkH.paysz
  nonce := e.blkNonce

end Sys2Proof.Machine
end

