-- ==== Sys2Proof/Machine/Transform.lean ====
section
/-! DEFINITION. The contract of the Block Payload Transform collaborator (R113 to R116): a pure function outside the
engine that no step performs, written down so that the spec's text of it is not lost (log 13). -/

namespace Sys2Proof.Machine

/-- The collaborator's result: the block's application bytes, or an error it reports to the host itself (R116). -/
inductive TransformResult where
  | bytes (s : List Byte)
  | failed (kind : ErrKind)
  deriving DecidableEq, Repr

/-- The block is flagged with that mask (R113). -/
def flagged (flags mask : Byte) : Bool := flags &&& mask != 0#8

/-- The first step: the stream cipher, for a block flagged "encrypted"; `none` is a cipher failure (R113). -/
def decryptPayload (x : TransformOut) (payload : List Byte) : Option (List Byte) :=
  if flagged x.flags Config.blkFEnc then Config.streamXform x.keymat x.nonce payload else some payload

/-- The second step, on the first one's output: the decompressor, for a block flagged "compressed" (R113). -/
def expandPayload (x : TransformOut) (bytes : List Byte) : Option (List Byte) :=
  if flagged x.flags Config.blkFComp then Config.decompress bytes x.maxblk.toNat else some bytes

/-- The transform of one block from the engine's outputs and the payload bytes they locate (R113, R116). -/
def transformPayload (x : TransformOut) (payload : List Byte) : TransformResult :=
  match decryptPayload x payload with
  | none => .failed .decryptionFailed
  | some y =>
    match expandPayload x y with
    | none => .failed .decompressionFailed
    | some z => .bytes z

/-- The payload of the block the outputs present, `FILE[X_PAYOFF, X_PAYOFF + X_PAYLEN)` (R113). -/
def presentedPayload (env : Env) (x : TransformOut) : List Byte := env.fileBytes x.payoff x.paylen.toNat

/-- The transform of the block the engine presents (R111, R113). -/
def transformBlock (env : Env) (e : Engine) : TransformResult :=
  transformPayload e.transformOut (presentedPayload env e.transformOut)

end Sys2Proof.Machine
end

