-- ==== Sys2Proof/Safety.lean ====
section
/-! DEFINITION. The terms the statements are made in: the invariant of the engine, what a successful pass is (R63), the
error table (R120), and which parts of the state two runs may differ in. -/

namespace Sys2Proof.Machine

/-- `PassOK` (R63): the spec's definition of a successful pass. -/
def Engine.passOk (e : Engine) : Bool :=
  e.run && !e.errf && !e.ill && e.mainv && e.encv && e.bend && (!e.keyv || (e.openv && e.metav && e.datav))

/-- A decode command, one that needs `ERRF = 0` (R59, R122). -/
def isDecodeCommand : Instr → Bool
  | .pmain | .penc | .eopen | .pmeta | .pdata | .binit | .bnext => true
  | .nop | .start | .endPass | .csclr | .cspush _ | .csrng => false

/-- Every offset, length and count fits its register (R8, R10, R23, R24, R25, R27). DESIGN CHOICE: `ARG0`, `ARG1`, `CUR`,
`BLK_OFF` and `ERR_OFF` have the `AW + 1` bits of these rules, not the `AW` bits of D2 (log 21). -/
structure Engine.Fits (e : Engine) : Prop where
  flen : e.flen < 2 ^ Config.aw
  arg0 : e.arg0 < 2 ^ (Config.aw + 1)
  arg1 : e.arg1 < 2 ^ (Config.aw + 1)
  bcount : e.bcount < 2 ^ Config.aw
  cur : e.cur < 2 ^ (Config.aw + 1)
  blkOff : e.blkOff < 2 ^ (Config.aw + 1)
  errOff : e.err.off < 2 ^ (Config.aw + 1)
  errAct : e.err.act < 2 ^ max 32 Config.aw

/-- With `RUN = 0` every register but `ILL`, `ARG0`, `ARG1`, `ACC8`, `ACC16` has its reset value (R59, R61, R135). -/
def Engine.IdleIsReset (e : Engine) : Prop :=
  e.run = false →
    e = { Engine.reset with ill := e.ill, arg0 := e.arg0, arg1 := e.arg1, acc8 := e.acc8, acc16 := e.acc16 }

/-- What the valid flags of the headers mean, and that the registers of a header not parsed in this pass are 0
(R9, R14 to R20, R94, R95). -/
structure Engine.Stages (e : Engine) : Prop where
  noKey : e.keyv = false → e.key = Vector.replicate 32 0#8
  noMain : e.mainv = false → e.mainH = Engine.reset.mainH
  main : e.mainv = true → e.mainH.magic = Config.magic ∧ 12 ≤ e.flen
  noEnc : e.encv = false → e.encH = Engine.reset.encH
  enc : e.encv = true → e.mainv = true ∧ 42 ≤ e.flen
  noOpen : e.openv = false →
    e.envTag = Engine.reset.envTag ∧ e.keymat = Engine.reset.keymat ∧ e.pih = [] ∧ e.pihlen = 0#16
  opened : e.openv = true →
    e.encv = true ∧ e.keyv = true ∧ 58 + e.ehs ≤ e.flen ∧ e.pihlen.toNat + 32 = e.ehs
  noMeta : e.metav = false → e.metaH = Engine.reset.metaH
  metaHdr : e.metav = true → e.openv = true ∧ 4 + e.metaH.paysz.toNat ≤ e.pihlen.toNat
  noData : e.datav = false → e.dataH = Engine.reset.dataH
  data : e.datav = true → e.metav = true ∧ 16 + e.metaH.paysz.toNat ≤ e.pihlen.toNat

/-- What the flags and registers of the block stream mean (R21 to R25, R105). -/
structure Engine.Stream (e : Engine) : Prop where
  opened : e.bact = true → e.encv = true ∧ e.bend = false ∧ 58 + e.ehs ≤ e.cur
  beginning : e.bact = true → e.prevv = false → e.cur = 58 + e.ehs
  ended : e.bend = true → e.encv = true ∧ e.bact = false ∧ e.cur = e.flen ∧ 58 + e.ehs ≤ e.cur
  inFile : e.cur ≤ e.flen
  yielded : e.blkv = true → e.bact = true ∧ e.prevv = true
  first : e.prevv = false →
    e.prevNum = 0#16 ∧ e.bcount = 0 ∧ e.blkOff = 0 ∧ e.blkH = Engine.reset.blkH
  later : e.prevv = true →
    e.encv = true ∧ 0 < e.bcount ∧ e.prevNum = e.blkH.num ∧ e.cur = e.blkOff + 8 + e.blkH.paysz.toNat ∧
      58 + e.ehs + 8 * e.bcount ≤ e.cur

/-- What the error registers hold (R27, U12, U13). -/
structure Engine.Errors (e : Engine) : Prop where
  noError : e.errf = false → e.err = Engine.reset.err
  error : e.errf = true →
    e.run = true ∧ e.bact = false ∧ e.blkv = false ∧ e.err.struct ≠ 0#3 ∧
      e.err.kind ∈ [1#3, 2#3, 3#3, 4#3, 6#3]

/-- Every listed offset of the memory is below `n`. -/
def Memory.below (m : Memory) (n : Nat) : Prop := ∀ c ∈ m, c.1 < n

/-- The invariant of the engine. -/
structure Engine.Inv (e : Engine) : Prop where
  fits : e.Fits
  idle : e.IdleIsReset
  stages : e.Stages
  stream : e.Stream
  errors : e.Errors
  pihWf : e.pih.wf = true
  pihBelow : e.pih.below e.pihlen.toNat

/-- What holds of the inputs: FILE is canonical and as long as it says, and `FLEN_IN` has `AW` bits (R12, R13). -/
structure Env.Inv (env : Env) : Prop where
  fileWf : env.file.wf = true
  fileBelow : env.file.below env.fileLen
  flenIn : env.flenIn < 2 ^ Config.aw

/-- The invariant of the machine: also, no byte the engine may read lies beyond FILE (R12, R31, R137). -/
structure State.Inv (s : State) : Prop where
  eng : s.eng.Inv
  env : s.env.Inv
  flen : s.eng.flen ≤ s.env.fileLen

/-- The rows of R120 for each command, in the order of R121: whether the row's condition holds, and the error record the
row gives, kind and structure by their codes (R118, R119). Rows E7 and E8 exclude each other by the reply. -/
def errorRows (i : Instr) (env : Env) (e : Engine) : List (Bool × ErrRecord) :=
  let file := env.file
  let ehs := e.encH.ehsz.toNat
  match i with
  | .nop | .start | .endPass | .csclr | .cspush _ | .csrng => []
  | .pmain =>
    [(e.flen < 12, ⟨1, 1, 0, 12, e.flen⟩),
      (le32 (file.bytes 0 4) != 0x19345601#32, ⟨2, 1, 0, 0x19345601#32, (le32 (file.bytes 0 4)).toNat⟩),
      (csum8 (file.bytes 0 11) != file.read 11,
        ⟨3, 1, 11, (csum8 (file.bytes 0 11)).setWidth 32, (file.read 11).toNat⟩)]
  | .penc =>
    [(e.flen - 12 < 30, ⟨1, 2, 12, 30, e.flen - 12⟩),
      (csum8 (file.bytes 12 29) != file.read 41,
        ⟨3, 2, 41, (csum8 (file.bytes 12 29)).setWidth 32, (file.read 41).toNat⟩)]
  | .eopen =>
    (decide (e.flen - 42 < ehs + 16), ⟨1, 3, 42, BitVec.ofNat 32 (ehs + 16), e.flen - 42⟩) ::
      (match env.aeadOpen (envelopeRequest env e) with
      | .authFailure => [(true, ⟨4, 3, 42, 0, 0⟩)]
      | .plaintext p =>
        [(p.length != ehs, ⟨4, 3, 42, BitVec.ofNat 32 ehs, p.length % 2 ^ 32⟩),
          (decide (ehs < 32), ⟨1, 4, 0, 32, ehs⟩)])
  | .pmeta =>
    let psz := (le16 (e.pih.bytes 2 2)).toNat
    [(e.pihlen.toNat < 4, ⟨1, 5, 0, 4, e.pihlen.toNat⟩),
      (e.pihlen.toNat - 4 < psz, ⟨1, 5, 4, BitVec.ofNat 32 psz, e.pihlen.toNat - 4⟩)]
  | .pdata =>
    let o := 4 + e.metaH.paysz.toNat
    [(e.pihlen.toNat - o < 12, ⟨1, 6, o, 12, e.pihlen.toNat - o⟩)]
  | .binit =>
    [(e.flen < 58 + ehs, ⟨1, 3, 42, BitVec.ofNat 32 (ehs + 16), e.flen - 42⟩)]
  | .bnext =>
    let psz := (le16 (file.bytes (e.cur + 2) 2)).toNat
    let num := (le16 (file.bytes e.cur 2)).toNat
    [(decide (0 < e.flen - e.cur) && decide (e.flen - e.cur < 8), ⟨1, 7, e.cur, 8, e.flen - e.cur⟩),
      (decide (0 < e.flen - e.cur) && csum8 (file.bytes e.cur 7) != file.read (e.cur + 7),
        ⟨3, 7, e.cur + 7, (csum8 (file.bytes e.cur 7)).setWidth 32, (file.read (e.cur + 7)).toNat⟩),
      (decide (0 < e.flen - e.cur) && decide (e.flen - e.cur - 8 < psz),
        ⟨1, 7, e.cur + 8, BitVec.ofNat 32 psz, e.flen - e.cur - 8⟩),
      (decide (0 < e.flen - e.cur) && e.prevv && num != e.prevNum.toNat + 1,
        ⟨6, 7, e.cur, BitVec.ofNat 32 (e.prevNum.toNat + 1), num⟩)]

/-- The record of the first row whose condition holds (R121). -/
def firstError : List (Bool × ErrRecord) → Option ErrRecord
  | [] => none
  | (holds, r) :: rows => if holds then some r else firstError rows

/-- The engine without its two secrets (R30). -/
def Engine.withoutSecrets (e : Engine) : Engine :=
  { e with key := Vector.replicate 32 0#8, keymat := Vector.replicate 32 0#8 }

/-- The engine without the registers of the block stream that `BINIT` writes (R101, R106). -/
def Engine.withoutStream (e : Engine) : Engine :=
  { e with
    bact := false, bend := false, blkv := false, prevv := false, prevNum := 0#16, bcount := 0, cur := 0
    blkOff := 0, blkH := Engine.reset.blkH }

/-- The two inputs have the same bytes below offset `n` and agree in everything but FILE. -/
def Env.agreeBelow (a b : Env) (n : Nat) : Prop :=
  (∀ o, o < n → a.file.read o = b.file.read o) ∧ a.flenIn = b.flenIn ∧ a.keyPresent = b.keyPresent ∧
    a.keyIn = b.keyIn ∧ a.aead = b.aead

/-- The engine, without `KEY` and with `KEYV = 0`: what a keyless pass has in common with a keyed one (R84). -/
def Engine.keyless (e : Engine) : Engine := { e with keyv := false, key := Vector.replicate 32 0#8 }

/-- The engine with other values in the registers that are stored and read by no command that does not write them (R54,
R77, R81, R96, R97). -/
def Engine.withStored (e : Engine) (m : MainHeader) (d : DataHeader) (epsz id : Half) (flags cs : Byte) : Engine :=
  { e with
    mainH := m
    dataH := d
    metaH := { e.metaH with id := id }
    encH := { e.encH with epsz := epsz, flags := flags, cs := cs } }

/-- The engine with other values in those of the stored registers that command `i` does not itself write (R59): `START` and
`END` write them all. -/
def Engine.varyStored (i : Instr) (m : MainHeader) (d : DataHeader) (epsz id : Half) (flags cs : Byte) (e : Engine) :
    Engine :=
  match i with
  | .start | .endPass => e
  | .pmain => e.withStored e.mainH d epsz id flags cs
  | .penc => e.withStored m d e.encH.epsz id e.encH.flags e.encH.cs
  | .pmeta => e.withStored m d epsz e.metaH.id flags cs
  | .pdata => e.withStored m e.dataH epsz id flags cs
  | .nop | .csclr | .cspush _ | .csrng | .eopen | .binit | .bnext => e.withStored m d epsz id flags cs

end Sys2Proof.Machine
end

