-- ==== Sys2Proof/Certificates/Slice0/Obligations.lean ====
section
/-! DEFINITION. The statements made of the fw_ssbf engine, one per rule or group of rules of spec/. Each statement of a
command's rule has a clause for every outcome the rule gives: refused, each error, and the command's own effect. A record
update says what the command writes and, by what it does not name, that everything else is unchanged. -/

open Sys2Proof Sys2Proof.Machine

/-! ### The command word -/

/-- R51 to R53: encoding and decoding are inverse, so every operand survives and every accepted word is the one word of its
command. -/
def Obligations.DecodeAndEncodeAreInverse : Prop :=
  ∀ (w : Half) (i : Instr), decode w = .ok i ↔ w = encode i

/-- R52: the words that decode are exactly those a row of the opcode map selects, exactly one row selects each of them, and
it is the row of the command decoded. -/
def Obligations.DecodeReadsTheOpcodeMap : Prop :=
  ∀ w : Half,
    ((∃ i, decode w = .ok i) ↔ ∃ r ∈ commandTable, w &&& r.mask = r.pattern) ∧
    ∀ i, decode w = .ok i → (commandTable.filter (·.selects w)).map (·.mnemonic) = [i.mnemonic]

/-- R52: words written out from the opcode map, one of each group and the ends of the immediate's range. -/
def Obligations.WrittenOutWordsDecode : Prop :=
  decode 0x0002#16 = .ok .endPass ∧ decode 0x0012#16 = .ok .csrng ∧ decode 0x4111#16 = .ok (.cspush 0x41#8) ∧
  decode 0xFF11#16 = .ok (.cspush 0xFF#8) ∧ decode 0x0022#16 = .ok .eopen ∧ decode 0x0031#16 = .ok .bnext ∧
  decode 0x0120#16 = .error (.reservedImmediate 0x20#8 0x01#8) ∧ decode 0x0003#16 = .error (.reservedOpcode 0x03#8)

/-! ### Steps, refusal, preconditions -/

/-- R51, R58, R129: when the host's next move is to write to `CMD` a word that decodes to `i`, the step is `exec i`, with
that move taken off the host's list; `START` needs `FLEN_IN` to be no more than FILE has (R137). With no move to come the
engine is idle and holds its state. -/
def Obligations.StepRunsTheDecodedCommand : Prop :=
  (∀ (s : State) (rest : List HostMove) (w : Half) (i : Instr),
    s.host = .write 0 w.toNat :: rest → decode w = .ok i →
    (i = .start → s.env.flenIn ≤ s.env.fileLen) →
    step s = exec i { s with host := rest }) ∧
  ∀ s : State, s.host = [] → step s = .next s

/-- R55 (a): a word no row selects has the one effect `ILL <- 1`; the host's move is used up. -/
def Obligations.ReservedWordOnlySetsIll : Prop :=
  ∀ (s : State) (rest : List HostMove) (w : Half),
    s.host = .write 0 w.toNat :: rest → (∀ r ∈ commandTable, w &&& r.mask ≠ r.pattern) →
    step s = .next { s with eng := { s.eng with ill := true }, host := rest }

/-- R59, R55 (b): the condition under which each command is refused, row by row of R59, and the one effect of a refusal. -/
def Obligations.RefusedOutsideThePrecondition : Prop :=
  ∀ s : State,
    let refused := Host.Outcome.next (φ := Fault) (ρ := Refusal) { s with eng := { s.eng with ill := true } }
    let e := s.eng
    (¬(e.run = true ∧ e.arg0 + e.arg1 ≤ e.flen) → exec .csrng s = refused) ∧
    (¬(e.run = true ∧ e.errf = false ∧ e.mainv = false) → exec .pmain s = refused) ∧
    (¬(e.run = true ∧ e.errf = false ∧ e.mainv = true ∧ e.encv = false) → exec .penc s = refused) ∧
    (¬(e.run = true ∧ e.errf = false ∧ e.encv = true ∧ e.keyv = true ∧ e.openv = false) →
      exec .eopen s = refused) ∧
    (¬(e.run = true ∧ e.errf = false ∧ e.openv = true ∧ e.metav = false) → exec .pmeta s = refused) ∧
    (¬(e.run = true ∧ e.errf = false ∧ e.metav = true ∧ e.datav = false) → exec .pdata s = refused) ∧
    (¬(e.run = true ∧ e.errf = false ∧ e.encv = true) → exec .binit s = refused) ∧
    (¬(e.run = true ∧ e.errf = false ∧ e.bact = true) → exec .bnext s = refused)

/-- R7, R124: over one step of the machine, `ILL` falls only by `START`, `END` or reset; and a command that sets `ILL`
changes nothing else. -/
def Obligations.IllIsStickyAndAlone : Prop :=
  (∀ s t : State, step s = .next t → s.eng.ill = true → t.eng.ill = false →
    ∃ m rest, s.host = m :: rest ∧ (m = .reset ∨ m = .write 0 0x0001 ∨ m = .write 0 0x0002)) ∧
  ∀ (i : Instr) (s t : State), exec i s = .next t → s.eng.ill = false → t.eng.ill = true →
    t = { s with eng := { s.eng with ill := true } }

/-- R7: over one step of the machine, `RUN` rises only by `START` and falls only by `END` or reset. -/
def Obligations.RunChangesOnlyByStartEndReset : Prop :=
  ∀ s t : State, step s = .next t →
    (s.eng.run = false → t.eng.run = true → ∃ rest, s.host = .write 0 0x0001 :: rest) ∧
    (s.eng.run = true → t.eng.run = false →
      ∃ m rest, s.host = m :: rest ∧ (m = .reset ∨ m = .write 0 0x0002))

/-! ### Control commands and reset -/

/-- R62. -/
def Obligations.NopRule : Prop :=
  decode 0x0000#16 = .ok .nop ∧ ∀ s : State, exec .nop s = .next s

/-- R60. -/
def Obligations.StartRule : Prop :=
  decode 0x0001#16 = .ok .start ∧
  ∀ s : State,
    ∃ t, exec .start s = .next t ∧
      t = { s with eng := { Engine.reset with
              run := true, flen := s.env.flenIn, keyv := s.env.keyPresent
              key := if s.env.keyPresent = true then s.env.keyIn else Vector.replicate 32 0#8 } } ∧
      t.eng.status = 1#32 ||| ((BitVec.ofBool s.env.keyPresent).setWidth 32 <<< 1)

/-- R61: `END` is never refused, and the state after it is the state after reset. That this is so with `RUN = 0` as well, where
it clears `ILL`, `ARG0`, `ARG1` and the accumulators, is the model's reading of R61 (log 18), whose remark that `END` with
`RUN = 0` changes nothing observable is taken of the reset state: there `END` changes nothing. -/
def Obligations.EndRule : Prop :=
  decode 0x0002#16 = .ok .endPass ∧
  (∀ s : State, exec .endPass s = .next { s with eng := State.reset.eng }) ∧
  exec .endPass State.reset = .next State.reset

/-- R135: the reset input leaves what `END` leaves. That it leaves the inputs and the host's other moves alone is the model's
reading (log 15). -/
def Obligations.ResetInputLeavesTheEndState : Prop :=
  ∀ (s : State) (rest : List HostMove), s.host = .reset :: rest →
    step s = .next { s with eng := State.reset.eng, host := rest } ∧
    step s = exec .endPass { s with host := rest }

/-- R136: after reset every host-readable register and view reads 0 or all zero bytes, at every index; and so do the
registers the host cannot read. -/
def Obligations.EverythingReadsZeroAfterReset : Prop :=
  (∀ reg i, hostRead State.reset.eng reg i = .num 0 ∨
    ∃ n, hostRead State.reset.eng reg i = .bytes (List.replicate n 0#8)) ∧
  State.reset.eng.key.toList = List.replicate 32 0#8 ∧ State.reset.eng.keymat.toList = List.replicate 32 0#8 ∧
  State.reset.eng.prevv = false ∧ ∀ a, State.reset.eng.pih.read a = 0#8

/-! ### The checksum unit -/

/-- R67. -/
def Obligations.CsclrRule : Prop :=
  decode 0x0010#16 = .ok .csclr ∧
  ∀ s : State, exec .csclr s = .next { s with eng := { s.eng with acc8 := 0x00#8, acc16 := 0x0000#16 } }

/-- R65, R68: one step of both accumulators, in the arithmetic on natural numbers the rules are written in. -/
def Obligations.CspushRule : Prop :=
  (∀ imm8 : Byte, decode (BitVec.ofNat 16 (imm8.toNat <<< 8 ||| 0x11)) = .ok (.cspush imm8)) ∧
  ∀ (imm8 : Byte) (s : State), ∃ (a : Byte) (b : Half),
    exec (.cspush imm8) s = .next { s with eng := { s.eng with acc8 := a, acc16 := b } } ∧
    a.toNat = ((s.eng.acc8.toNat >>> 1 ||| (s.eng.acc8.toNat &&& 1) <<< 7) + imm8.toNat) % 2 ^ 8 ∧
    b.toNat = ((s.eng.acc16.toNat >>> 1 ||| (s.eng.acc16.toNat &&& 1) <<< 15) + imm8.toNat) % 2 ^ 16

/-- R69: the bytes are taken in increasing offset order, continuing from the current accumulators. -/
def Obligations.CsrngRule : Prop :=
  decode 0x0012#16 = .ok .csrng ∧
  ∀ s : State,
    (¬(s.eng.run = true ∧ s.eng.arg0 + s.eng.arg1 ≤ s.eng.flen) →
      exec .csrng s = .next { s with eng := { s.eng with ill := true } }) ∧
    (s.eng.run = true → s.eng.arg0 + s.eng.arg1 ≤ s.eng.flen →
      exec .csrng s = .next { s with eng := { s.eng with
        acc8 := (List.range s.eng.arg1).foldl (fun c k => step8 c (s.env.file.read (s.eng.arg0 + k))) s.eng.acc8
        acc16 :=
          (List.range s.eng.arg1).foldl (fun c k => step16 c (s.env.file.read (s.eng.arg0 + k))) s.eng.acc16 } })

/-- R70: a checksum can be computed in pieces; and the checksum of the whole is no function of those of the parts. -/
def Obligations.ChecksumInPieces : Prop :=
  (∀ (c : Byte) (s t : List Byte), fold8 c (s ++ t) = fold8 (fold8 c s) t) ∧
  (∀ (c : Half) (s t : List Byte), fold16 c (s ++ t) = fold16 (fold16 c s) t) ∧
  (¬∃ f : Byte → Byte → Byte, ∀ s t, csum8 (s ++ t) = f (csum8 s) (csum8 t)) ∧
  ¬∃ f : Half → Half → Half, ∀ s t, csum16 (s ++ t) = f (csum16 s) (csum16 t)

/-- R71: each step is a bijection of the accumulator and injective in the byte, so changing exactly one byte of a sequence
always changes both checksums; changing two can cancel. -/
def Obligations.OneChangedByteIsAlwaysDetected : Prop :=
  (∀ b : Byte, Function.Bijective fun c : Byte => step8 c b) ∧
  (∀ b : Byte, Function.Bijective fun c : Half => step16 c b) ∧
  (∀ c : Byte, Function.Injective (step8 c)) ∧ (∀ c : Half, Function.Injective (step16 c)) ∧
  (∀ (s t : List Byte) (a b : Byte), a ≠ b →
    csum8 (s ++ a :: t) ≠ csum8 (s ++ b :: t) ∧ csum16 (s ++ a :: t) ≠ csum16 (s ++ b :: t)) ∧
  csum8 [0x01#8, 0x00#8] = 0x80#8 ∧ csum8 [0x00#8, 0x80#8] = 0x80#8

/-- R72: leading zero bytes are not detected, and an all-zero sequence has checksum 0. -/
def Obligations.LeadingZerosAreNotDetected : Prop :=
  ∀ (n : Nat) (s : List Byte),
    csum8 (List.replicate n 0#8 ++ s) = csum8 s ∧ csum16 (List.replicate n 0#8 ++ s) = csum16 s ∧
    csum8 (List.replicate n 0#8) = 0#8 ∧ csum16 (List.replicate n 0#8) = 0#16

/-- R57: the pseudo-command `CSUM off, len` leaves both checksums of the range in the accumulators. -/
def Obligations.CsumPseudoCommand : Prop :=
  ∀ (s : State) (rest : List HostMove) (off len : Nat),
    s.host = pseudoCsum off len ++ rest → s.eng.run = true → off + len ≤ s.eng.flen →
    s.eng.flen < 2 ^ Config.aw →
    Host.Core.run core 4 s = .next { s with
      host := rest
      eng := { s.eng with
        arg0 := off, arg1 := len
        acc8 := csum8 (s.env.file.bytes off len), acc16 := csum16 (s.env.file.bytes off len) } }

/-! ### Memory and byte order -/

/-- R33: `le16` and `le32` are the little-endian numbers. -/
def Obligations.ConversionIsLittleEndian : Prop :=
  (∀ a b : Byte, (le16 [a, b]).toNat = a.toNat + 256 * b.toNat) ∧
  ∀ a b c d : Byte,
    (le32 [a, b, c, d]).toNat = a.toNat + 256 * b.toNat + 65536 * c.toNat + 16777216 * d.toNat

/-- R31, R39: no command reads FILE at or beyond `FLEN`: on inputs that agree below `FLEN` every command has the same
effect on the engine. -/
def Obligations.NoReadAtOrBeyondFlen : Prop :=
  ∀ (i : Instr) (s t : State) (env : Env),
    s.env.agreeBelow env s.eng.flen → exec i s = .next t →
    exec i { s with env := env } = .next { t with env := env }

/-- R36, R138: no command writes FILE or the launch inputs, and no step of the machine during a pass changes FILE, its
length, or what it reads at any offset. -/
def Obligations.FileIsImmutableDuringAPass : Prop :=
  (∀ (i : Instr) (s t : State), exec i s = .next t → t.env = s.env ∧ t.host = s.host) ∧
  ∀ s t : State, step s = .next t → s.eng.run = true →
    t.env.fileLen = s.env.fileLen ∧ ∀ a, t.env.file.read a = s.env.file.read a

/-! ### The parsers -/

/-- R75. -/
def Obligations.PmainRule : Prop :=
  decode 0x0020#16 = .ok .pmain ∧
  ∀ s : State,
    let file := s.env.file
    (¬(s.eng.run = true ∧ s.eng.errf = false ∧ s.eng.mainv = false) →
      exec .pmain s = .next { s with eng := { s.eng with ill := true } }) ∧
    (s.eng.run = true → s.eng.errf = false → s.eng.mainv = false →
      (s.eng.flen < 12 →
        exec .pmain s = .next { s with eng := raise .truncatedInput .main 0 12 s.eng.flen s.eng }) ∧
      (12 ≤ s.eng.flen → le32 (file.bytes 0 4) ≠ Config.magic →
        exec .pmain s = .next { s with
          eng := raise .badMagic .main 0 Config.magic.toNat (le32 (file.bytes 0 4)).toNat s.eng }) ∧
      (12 ≤ s.eng.flen → le32 (file.bytes 0 4) = Config.magic → csum8 (file.bytes 0 11) ≠ file.read 11 →
        exec .pmain s = .next { s with
          eng := raise .checksumMismatch .main 11 (csum8 (file.bytes 0 11)).toNat (file.read 11).toNat s.eng }) ∧
      (12 ≤ s.eng.flen → le32 (file.bytes 0 4) = Config.magic → csum8 (file.bytes 0 11) = file.read 11 →
        exec .pmain s = .next { s with eng := { s.eng with
          mainv := true
          mainH := { magic := le32 (file.bytes 0 4), paysz := le32 (file.bytes 4 4), fhsz := le16 (file.bytes 8 2)
                     flags := file.read 10, cs := file.read 11 } } }))

/-- R76: for any eleven bytes that begin with the magic, `PMAIN` on them and their checksum succeeds and gives back the
four fields, and the checksum; `MAIN_SIZE` is 12. -/
def Obligations.PmainRoundTrips : Prop :=
  Config.mainSize = 12 ∧
  ∀ (s : State) (m : List Byte),
    s.eng.run = true → s.eng.errf = false → s.eng.mainv = false → 12 ≤ s.eng.flen →
    m.length = 11 → m.take 4 = [0x01#8, 0x56#8, 0x34#8, 0x19#8] →
    s.env.file.bytes 0 12 = m ++ [csum8 m] →
    ∃ t, exec .pmain s = .next t ∧ t.eng.mainv = true ∧ t.eng.errf = false ∧
      t.eng.mainH.magic = le32 (slice m 0 4) ∧ t.eng.mainH.paysz = le32 (slice m 4 8) ∧
      t.eng.mainH.fhsz = le16 (slice m 8 10) ∧ t.eng.mainH.flags = byteAt m 10 ∧ t.eng.mainH.cs = csum8 m

/-- R80. `FLEN >= 12` because `MAINV = 1`: it is part of the invariant (`Engine.Stages.main`). -/
def Obligations.PencRule : Prop :=
  decode 0x0021#16 = .ok .penc ∧
  ∀ s : State,
    let file := s.env.file
    (¬(s.eng.run = true ∧ s.eng.errf = false ∧ s.eng.mainv = true ∧ s.eng.encv = false) →
      exec .penc s = .next { s with eng := { s.eng with ill := true } }) ∧
    (s.eng.run = true → s.eng.errf = false → s.eng.mainv = true → s.eng.encv = false → 12 ≤ s.eng.flen →
      (s.eng.flen - 12 < 30 →
        exec .penc s = .next { s with eng := raise .truncatedInput .enc 12 30 (s.eng.flen - 12) s.eng }) ∧
      (30 ≤ s.eng.flen - 12 → csum8 (file.bytes 12 29) ≠ file.read 41 →
        exec .penc s = .next { s with
          eng := raise .checksumMismatch .enc 41 (csum8 (file.bytes 12 29)).toNat (file.read 41).toNat s.eng }) ∧
      (30 ≤ s.eng.flen - 12 → csum8 (file.bytes 12 29) = file.read 41 →
        exec .penc s = .next { s with eng := { s.eng with
          encv := true
          encH := { nonce := Vector.ofFn fun i => file.read (12 + i.val), epsz := le16 (file.bytes 36 2)
                    ehsz := le16 (file.bytes 38 2), flags := file.read 40, cs := file.read 41 } } }))

/-- R82, R83, R85: the request `EOPEN` makes, every element the bytes of KEY or FILE at their offsets, unchanged. -/
def Obligations.RequestIsFramedFromTheFile : Prop :=
  ∀ (env : Env) (e : Engine),
    envelopeRequest env e =
      { key := e.key, nonce := e.encH.nonce
        tag := Vector.ofFn fun i => env.file.read (42 + e.encH.ehsz.toNat + i.val)
        ct := env.file.bytes 42 e.encH.ehsz.toNat, aad := env.file.bytes 0 42 }

/-- R88: the four errors in their order, and the split of the plaintext. The reply is that of the primitive to the
request; a state fixes it by `env.aead`. `FLEN >= 42` because `ENCV = 1` (`Engine.Stages.enc`). -/
def Obligations.EopenRule : Prop :=
  decode 0x0022#16 = .ok .eopen ∧
  ∀ s : State,
    let ehs := s.eng.encH.ehsz.toNat
    let reply := s.env.aeadOpen (envelopeRequest s.env s.eng)
    (¬(s.eng.run = true ∧ s.eng.errf = false ∧ s.eng.encv = true ∧ s.eng.keyv = true ∧ s.eng.openv = false) →
      exec .eopen s = .next { s with eng := { s.eng with ill := true } }) ∧
    (s.eng.run = true → s.eng.errf = false → s.eng.encv = true → s.eng.keyv = true → s.eng.openv = false →
      42 ≤ s.eng.flen →
      (s.eng.flen - 42 < ehs + 16 →
        exec .eopen s = .next { s with
          eng := raise .truncatedInput .blob 42 (ehs + 16) (s.eng.flen - 42) s.eng }) ∧
      (ehs + 16 ≤ s.eng.flen - 42 → reply = .authFailure →
        exec .eopen s = .next { s with eng := raise .decryptionFailed .blob 42 0 0 s.eng }) ∧
      (∀ p, ehs + 16 ≤ s.eng.flen - 42 → reply = .plaintext p → p.length ≠ ehs →
        exec .eopen s = .next { s with
          eng := raise .decryptionFailed .blob 42 ehs (p.length % 2 ^ 32) s.eng }) ∧
      (∀ p, ehs + 16 ≤ s.eng.flen - 42 → reply = .plaintext p → p.length = ehs → ehs < 32 →
        exec .eopen s = .next { s with eng := raise .truncatedInput .inner 0 32 ehs s.eng }) ∧
      (∀ p, ehs + 16 ≤ s.eng.flen - 42 → reply = .plaintext p → p.length = ehs → 32 ≤ ehs →
        ∃ pih : Memory,
          exec .eopen s = .next { s with eng := { s.eng with
            envTag := Vector.ofFn fun i => s.env.file.read (42 + ehs + i.val)
            keymat := Vector.ofFn fun i => byteAt p i.val
            pih := pih, pihlen := BitVec.ofNat 16 (ehs - 32), openv := true } } ∧
          ∀ i, pih.read i = byteAt p (32 + i)))

/-- R87: an `EOPEN` that does not succeed leaves `KEYMAT`, PIH, `PIHLEN` and `ENV_TAG` as they were before it, and from a
state of the invariant they are all zero. -/
def Obligations.FailedEopenReturnsNoPlaintext : Prop :=
  ∀ s t : State, exec .eopen s = .next t → t.eng.openv = false →
    t.eng.keymat = s.eng.keymat ∧ t.eng.pih = s.eng.pih ∧ t.eng.pihlen = s.eng.pihlen ∧
    t.eng.envTag = s.eng.envTag ∧
    (s.eng.Inv → t.eng.keymat = Vector.replicate 32 0#8 ∧ t.eng.pihlen = 0#16 ∧ ∀ a, t.eng.pih.read a = 0#8)

/-- R89: for a fixed FILE, key and primitive, `EOPEN` that succeeds in two passes gives the same `KEYMAT` and PIH,
whatever else the two engines hold. -/
def Obligations.EopenIsDeterministic : Prop :=
  ∀ s s' t t' : State,
    s'.env.file = s.env.file → s'.env.aead = s.env.aead → s'.eng.key = s.eng.key → s'.eng.encH = s.eng.encH →
    s.eng.openv = false → s'.eng.openv = false →
    exec .eopen s = .next t → exec .eopen s' = .next t' → t.eng.openv = true → t'.eng.openv = true →
    t'.eng.keymat = t.eng.keymat ∧ t'.eng.pih = t.eng.pih ∧ t'.eng.pihlen = t.eng.pihlen

/-- R84, first half: without a key `EOPEN` is refused, in every state of the invariant the keyed registers are 0, and the
key-independent commands do the same with and without a key. -/
def Obligations.AbsentKey : Prop :=
  (∀ s : State, s.eng.keyv = false → exec .eopen s = .next { s with eng := { s.eng with ill := true } }) ∧
  (∀ e : Engine, e.Inv → e.keyv = false →
    e.openv = false ∧ e.metav = false ∧ e.datav = false ∧ e.keymat = Vector.replicate 32 0#8 ∧ e.pihlen = 0#16) ∧
  ∀ (i : Instr) (s t : State), i = .pmain ∨ i = .penc ∨ i = .binit ∨ i = .bnext →
    exec i s = .next t →
    exec i { s with eng := s.eng.keyless } = .next { t with eng := t.eng.keyless }

/-- R84, second half, and R100: no byte of the EncryptedBlob is read by any command of a keyless pass but `CSRNG`: on files
that agree outside it, every such command has the same effect on the engine. -/
def Obligations.KeylessPassSkipsTheBlob : Prop :=
  ∀ (i : Instr) (s t : State) (file : Memory),
    s.eng.Inv → s.eng.keyv = false → i ≠ .csrng → exec i s = .next t →
    (∀ a, a < 42 ∨ 58 + s.eng.encH.ehsz.toNat ≤ a → file.read a = s.env.file.read a) →
    exec i { s with env := { s.env with file := file } } =
      .next { t with env := { t.env with file := file } }

/-- R94. -/
def Obligations.PmetaRule : Prop :=
  decode 0x0023#16 = .ok .pmeta ∧
  ∀ s : State,
    let len := s.eng.pihlen.toNat
    let psz := (le16 (s.eng.pih.bytes 2 2)).toNat
    (¬(s.eng.run = true ∧ s.eng.errf = false ∧ s.eng.openv = true ∧ s.eng.metav = false) →
      exec .pmeta s = .next { s with eng := { s.eng with ill := true } }) ∧
    (s.eng.run = true → s.eng.errf = false → s.eng.openv = true → s.eng.metav = false →
      (len < 4 → exec .pmeta s = .next { s with eng := raise .truncatedInput .metaHdr 0 4 len s.eng }) ∧
      (4 ≤ len → len - 4 < psz →
        exec .pmeta s = .next { s with eng := raise .truncatedInput .metaHdr 4 psz (len - 4) s.eng }) ∧
      (4 ≤ len → psz ≤ len - 4 →
        exec .pmeta s = .next { s with eng := { s.eng with
          metav := true
          metaH := { id := le16 (s.eng.pih.bytes 0 2), paysz := le16 (s.eng.pih.bytes 2 2) } } }))

/-- R95. `o <= PIHLEN` because `METAV = 1` (`Engine.Stages.metaHdr`). -/
def Obligations.PdataRule : Prop :=
  decode 0x0024#16 = .ok .pdata ∧
  ∀ s : State,
    let o := 4 + s.eng.metaH.paysz.toNat
    let avail := s.eng.pihlen.toNat - o
    let pih := s.eng.pih
    (¬(s.eng.run = true ∧ s.eng.errf = false ∧ s.eng.metav = true ∧ s.eng.datav = false) →
      exec .pdata s = .next { s with eng := { s.eng with ill := true } }) ∧
    (s.eng.run = true → s.eng.errf = false → s.eng.metav = true → s.eng.datav = false → o ≤ s.eng.pihlen.toNat →
      (avail < 12 → exec .pdata s = .next { s with eng := raise .truncatedInput .data o 12 avail s.eng }) ∧
      (12 ≤ avail →
        exec .pdata s = .next { s with eng := { s.eng with
          datav := true
          dataH := { total := le32 (pih.bytes o 4), maxblk := le16 (pih.bytes (o + 4) 2), flags := pih.read (o + 6)
                     rsvd := pih.read (o + 7), fullcs := le32 (pih.bytes (o + 8) 4) } } }))

/-- R54, R77, R81, R96, R97: the fields that are stored only are read by no command: every command does the same to
everything else, whatever those of the registers `MAIN_*`, `ENC_EPSZ`, `ENC_FLAGS`, `ENC_CS`, `META_ID` and `DATA_*` hold that it
does not itself write; and `START` and `END`, which write them all, do the same whatever they held. -/
def Obligations.StoredFieldsAreNotInterpreted : Prop :=
  ∀ (i : Instr) (s t : State) (m : MainHeader) (d : DataHeader) (epsz id : Half) (flags cs : Byte),
    exec i s = .next t →
    exec i { s with eng := s.eng.varyStored i m d epsz id flags cs } =
      .next { t with eng := t.eng.varyStored i m d epsz id flags cs } ∧
    (i = .start ∨ i = .endPass → exec i { s with eng := s.eng.withStored m d epsz id flags cs } = .next t)

/-- R11, R73: only the checksum commands read or write the accumulators; `START` and `END` clear them. -/
def Obligations.AccumulatorsAreTheChecksumUnits : Prop :=
  ∀ (i : Instr) (s t : State) (a : Byte) (b : Half),
    i ≠ .start → i ≠ .endPass → i ≠ .csclr → (∀ imm8, i ≠ .cspush imm8) → i ≠ .csrng → exec i s = .next t →
    t.eng.acc8 = s.eng.acc8 ∧ t.eng.acc16 = s.eng.acc16 ∧
    exec i { s with eng := { s.eng with acc8 := a, acc16 := b } } =
      .next { t with eng := { t.eng with acc8 := a, acc16 := b } }

/-! ### The block stream -/

/-- R100, R101. `FLEN >= 42` because `ENCV = 1` (`Engine.Stages.enc`). -/
def Obligations.BinitRule : Prop :=
  decode 0x0030#16 = .ok .binit ∧
  ∀ s : State,
    let ehs := s.eng.encH.ehsz.toNat
    (¬(s.eng.run = true ∧ s.eng.errf = false ∧ s.eng.encv = true) →
      exec .binit s = .next { s with eng := { s.eng with ill := true } }) ∧
    (s.eng.run = true → s.eng.errf = false → s.eng.encv = true → 42 ≤ s.eng.flen →
      (s.eng.flen < 58 + ehs →
        exec .binit s = .next { s with
          eng := raise .truncatedInput .blob 42 (ehs + 16) (s.eng.flen - 42) s.eng }) ∧
      (58 + ehs ≤ s.eng.flen →
        exec .binit s = .next { s with eng := { s.eng with
          cur := 58 + ehs, prevv := false, prevNum := 0, bcount := 0, blkv := false, blkOff := 0
          blkH := { num := 0, paysz := 0, paycs := 0, flags := 0, hcs := 0 }
          bend := false, bact := true } }))

/-- R102, R103: clean end, the four errors in their order, and the yielded block. The sequence check is on natural
numbers. `CUR <= FLEN` while `BACT = 1` (`Engine.Stream.inFile`). -/
def Obligations.BnextRule : Prop :=
  decode 0x0031#16 = .ok .bnext ∧
  ∀ s : State,
    let e := s.eng
    let file := s.env.file
    let rem := e.flen - e.cur
    let num := (le16 (file.bytes e.cur 2)).toNat
    let psz := (le16 (file.bytes (e.cur + 2) 2)).toNat
    let c := csum8 (file.bytes e.cur 7)
    let stored := file.read (e.cur + 7)
    (¬(e.run = true ∧ e.errf = false ∧ e.bact = true) →
      exec .bnext s = .next { s with eng := { e with ill := true } }) ∧
    (e.run = true → e.errf = false → e.bact = true → e.cur ≤ e.flen →
      (rem = 0 → exec .bnext s = .next { s with eng := { e with bact := false, bend := true, blkv := false } }) ∧
      (0 < rem → rem < 8 →
        exec .bnext s = .next { s with eng := raise .truncatedInput .block e.cur 8 rem e }) ∧
      (8 ≤ rem → c ≠ stored →
        exec .bnext s = .next { s with
          eng := raise .checksumMismatch .block (e.cur + 7) c.toNat stored.toNat e }) ∧
      (8 ≤ rem → c = stored → rem - 8 < psz →
        exec .bnext s = .next { s with eng := raise .truncatedInput .block (e.cur + 8) psz (rem - 8) e }) ∧
      (8 ≤ rem → c = stored → psz ≤ rem - 8 → e.prevv = true → num ≠ e.prevNum.toNat + 1 →
        exec .bnext s = .next { s with
          eng := raise .sequenceMismatch .block e.cur (e.prevNum.toNat + 1) num e }) ∧
      (8 ≤ rem → c = stored → psz ≤ rem - 8 → (e.prevv = true → num = e.prevNum.toNat + 1) →
        exec .bnext s = .next { s with eng := { e with
          blkOff := e.cur
          blkH := { num := le16 (file.bytes e.cur 2), paysz := le16 (file.bytes (e.cur + 2) 2)
                    paycs := le16 (file.bytes (e.cur + 4) 2), flags := file.read (e.cur + 6), hcs := stored }
          blkv := true, prevv := true, prevNum := le16 (file.bytes e.cur 2), bcount := e.bcount + 1
          cur := e.cur + 8 + psz } }))

/-- R105: a yielded block begins where the one before it ended, or where the stream begins if it is the first, and ends
inside FILE; a stream that ended cleanly ended at the end of FILE. -/
def Obligations.BlocksTileTheStream : Prop :=
  ∀ s t : State, s.eng.Inv → exec .bnext s = .next t →
    (t.eng.bcount ≠ s.eng.bcount →
      t.eng.blkOff = s.eng.cur ∧ t.eng.cur = t.eng.blkOff + 8 + t.eng.blkH.paysz.toNat ∧ t.eng.cur ≤ t.eng.flen ∧
      (s.eng.prevv = true → t.eng.blkOff = s.eng.blkOff + 8 + s.eng.blkH.paysz.toNat) ∧
      (s.eng.prevv = false → t.eng.blkOff = 58 + s.eng.encH.ehsz.toNat)) ∧
    (t.eng.bend = true → t.eng.cur = t.eng.flen)

/-- R103, R140: over a `BNEXT` that yields a block after another, block numbers rise by exactly one as natural numbers, so
the number cannot wrap; after block 65535 no block is yielded; and different block numbers have different nonces. -/
def Obligations.BlockNumbersNeverRepeat : Prop :=
  (∀ s t : State, exec .bnext s = .next t → s.eng.prevv = true → t.eng.bcount ≠ s.eng.bcount →
    t.eng.prevNum.toNat = s.eng.prevNum.toNat + 1 ∧ t.eng.blkH.num = t.eng.prevNum) ∧
  (∀ s t : State, exec .bnext s = .next t → s.eng.prevv = true → s.eng.prevNum = 0xFFFF#16 →
    t.eng.bcount = s.eng.bcount) ∧
  ∀ a b : Half, nonceOf a = nonceOf b → a = b

/-- R106: after a successful `BINIT` the engine is the same whatever the stream had been before, so the same walk
follows. -/
def Obligations.StreamIsRestartable : Prop :=
  ∀ (s : State) (e : Engine), e.withoutStream = s.eng.withoutStream →
    s.eng.run = true → s.eng.errf = false → s.eng.encv = true → 58 + s.eng.encH.ehsz.toNat ≤ s.eng.flen →
    ∀ k, pseudoBlocks k { s with eng := e } = pseudoBlocks k s

/-- R108: from a state with the stream open, at most `(FLEN - CUR) / 8 + 1` further `BNEXT` close it, cleanly or with an
error. -/
def Obligations.StreamIsFinite : Prop :=
  ∀ (s : State) (k : Nat),
    s.eng.run = true → s.eng.errf = false → s.eng.bact = true → s.eng.bend = false →
    (s.eng.flen - s.eng.cur) / 8 + 1 ≤ k →
    ∃ t, bnextUntilDone k s = .next t ∧ t.eng.bact = false ∧ (t.eng.bend = true ∨ t.eng.errf = true)

/-! ### Errors -/

/-- R117: when a command raises, it makes the eight writes of the error entry and no other: `ERRF <- 1`, the five fields of
`ERR_*`, `BACT <- 0`, `BLKV <- 0`. A command raises only with `ERRF = 0` (R59), so it never overwrites a record. -/
def Obligations.ErrorEntryIsPrecise : Prop :=
  ∀ (i : Instr) (s t : State), exec i s = .next t → t.eng.errf = true →
    (s.eng.errf = false →
      t = { s with eng := { s.eng with err := t.eng.err, errf := true, bact := false, blkv := false } }) ∧
    (t.eng.err ≠ s.eng.err → s.eng.errf = false)

/-- R118 to R121: a command whose precondition holds raises exactly when some row of R120 holds for it, and records the
first row that does, with the codes of R118 and R119. In a state of the invariant no subtraction of the table falls below
zero. -/
def Obligations.ErrorTableIsExact : Prop :=
  ∀ (i : Instr) (s t : State),
    s.eng.Inv → precondition i s.eng = true → i ≠ .start → i ≠ .endPass → exec i s = .next t →
    match firstError (errorRows i s.env s.eng) with
    | some r => t.eng.errf = true ∧ t.eng.err = r ∧ t.eng.bact = false ∧ t.eng.blkv = false
    | none => t.eng.errf = s.eng.errf ∧ t.eng.err = s.eng.err

/-- R122: with `ERRF = 1` every decode command is refused, and the error record stays until `START`, `END` or reset. -/
def Obligations.ErrorsAreTerminal : Prop :=
  (∀ (i : Instr) (s : State), s.eng.errf = true → isDecodeCommand i = true →
    exec i s = .next { s with eng := { s.eng with ill := true } }) ∧
  ∀ s t : State, step s = .next t → s.eng.errf = true →
    (t.eng.errf = true ∧ t.eng.err = s.eng.err) ∨
    ∃ m rest, s.host = m :: rest ∧ (m = .reset ∨ m = .write 0 0x0001 ∨ m = .write 0 0x0002)

/-! ### Frames -/

/-- The frame of the checksum commands and of `NOP` (R11, R59): on every path they write the accumulators, or `ILL` when
refused, and nothing else. -/
def Obligations.FrameOfTheChecksumCommands : Prop :=
  ∀ (i : Instr) (s t : State), i = .nop ∨ i = .csclr ∨ (∃ imm8, i = .cspush imm8) ∨ i = .csrng →
    exec i s = .next t →
    t = { s with eng := { s.eng with acc8 := t.eng.acc8, acc16 := t.eng.acc16, ill := t.eng.ill } } ∧
    (i ≠ .csrng → t.eng.ill = s.eng.ill) ∧
    ∀ a, t.env.file.read a = s.env.file.read a ∧ t.eng.pih.read a = s.eng.pih.read a

/-- The frame of the parsers (R14 to R20, R59, R117): each writes its own header and valid flag, or the error entry, or
`ILL`; only `EOPEN` writes a byte of PIH, and none writes a byte of FILE. -/
def Obligations.FrameOfTheParsers : Prop :=
  ∀ s t : State,
    let failed := fun e : Engine =>
      { e with err := t.eng.err, errf := t.eng.errf, bact := t.eng.bact, blkv := t.eng.blkv, ill := t.eng.ill }
    (exec .pmain s = .next t →
      t = { s with eng := { failed s.eng with mainv := t.eng.mainv, mainH := t.eng.mainH } }) ∧
    (exec .penc s = .next t →
      t = { s with eng := { failed s.eng with encv := t.eng.encv, encH := t.eng.encH } }) ∧
    (exec .eopen s = .next t →
      t = { s with eng := { failed s.eng with
        openv := t.eng.openv, envTag := t.eng.envTag, keymat := t.eng.keymat, pih := t.eng.pih
        pihlen := t.eng.pihlen } }) ∧
    (exec .pmeta s = .next t →
      t = { s with eng := { failed s.eng with metav := t.eng.metav, metaH := t.eng.metaH } }) ∧
    (exec .pdata s = .next t →
      t = { s with eng := { failed s.eng with datav := t.eng.datav, dataH := t.eng.dataH } }) ∧
    (exec .pmain s = .next t ∨ exec .penc s = .next t ∨ exec .pmeta s = .next t ∨ exec .pdata s = .next t →
      ∀ a, t.env.file.read a = s.env.file.read a ∧ t.eng.pih.read a = s.eng.pih.read a)

/-- The frame of the stream commands (R21 to R25, R59, R117): they write the stream registers, or the error entry, or
`ILL`, and no byte of FILE or PIH. -/
def Obligations.FrameOfTheStreamCommands : Prop :=
  ∀ (i : Instr) (s t : State), i = .binit ∨ i = .bnext → exec i s = .next t →
    t = { s with eng := { s.eng with
      bact := t.eng.bact, bend := t.eng.bend, blkv := t.eng.blkv, prevv := t.eng.prevv, prevNum := t.eng.prevNum
      bcount := t.eng.bcount, cur := t.eng.cur, blkOff := t.eng.blkOff, blkH := t.eng.blkH
      err := t.eng.err, errf := t.eng.errf, ill := t.eng.ill } } ∧
    ∀ a, t.env.file.read a = s.env.file.read a ∧ t.eng.pih.read a = s.eng.pih.read a

/-- R13, U18, U19: only `START` samples the launch inputs, and it ignores `KEY_IN` when no key is present. -/
def Obligations.LaunchInputsAreSampledByStartOnly : Prop :=
  (∀ (i : Instr) (s t : State) (flenIn : Nat) (present : Bool) (key : Vector Byte 32),
    i ≠ .start → exec i s = .next t →
    exec i { s with env := { s.env with flenIn := flenIn, keyPresent := present, keyIn := key } } =
      .next { t with env := { t.env with flenIn := flenIn, keyPresent := present, keyIn := key } }) ∧
  ∀ (s t : State) (key : Vector Byte 32), s.env.keyPresent = false → exec .start s = .next t →
    exec .start { s with env := { s.env with keyIn := key } } =
      .next { t with env := { t.env with keyIn := key } }

/-! ### The host's view -/

/-- R28: each bit of STATUS is its flag, and bits 31:12 are zero. -/
def Obligations.StatusBitsAreTheFlags : Prop :=
  ∀ e : Engine,
    e.status.getLsbD 0 = e.run ∧ e.status.getLsbD 1 = e.keyv ∧ e.status.getLsbD 2 = e.mainv ∧
    e.status.getLsbD 3 = e.encv ∧ e.status.getLsbD 4 = e.openv ∧ e.status.getLsbD 5 = e.metav ∧
    e.status.getLsbD 6 = e.datav ∧ e.status.getLsbD 7 = e.bact ∧ e.status.getLsbD 8 = e.blkv ∧
    e.status.getLsbD 9 = e.bend ∧ e.status.getLsbD 10 = e.errf ∧ e.status.getLsbD 11 = e.ill ∧
    ∀ k, 12 ≤ k → e.status.getLsbD k = false

/-- R26: each view has its value while its flag is set and reads as 0 otherwise, at its register number (R29); the bytes of
`BLK_NONCE` while `BLKV = 1` are R112's. That `BLK_NONCE` reads 24 zero bytes while `BLKV = 0`, whatever `BLK_NUM` holds, is the
model's reading (log 16). -/
def Obligations.ViewsAreGated : Prop :=
  ∀ (e : Engine) (i : Nat),
    hostRead e 40 i = .num (if e.encv = true then 42 else 0) ∧
    hostRead e 41 i = .num (if e.encv = true then e.encH.ehsz.toNat else 0) ∧
    hostRead e 42 i = .num (if e.encv = true then 42 + e.encH.ehsz.toNat else 0) ∧
    hostRead e 43 i = .num (if e.encv = true then 58 + e.encH.ehsz.toNat else 0) ∧
    hostRead e 44 i = .num (if e.metav = true then 4 else 0) ∧
    hostRead e 45 i = .num (if e.metav = true then 4 + e.metaH.paysz.toNat else 0) ∧
    hostRead e 46 i = .num (if e.blkv = true then e.blkOff + 8 else 0) ∧
    hostRead e 47 i = .num (if e.blkv = true then 8 + e.blkH.paysz.toNat else 0) ∧
    hostRead e 48 i = .bytes (if e.blkv = true then
      [BitVec.ofNat 8 (e.blkH.num.toNat % 256), BitVec.ofNat 8 (e.blkH.num.toNat / 256)] ++ List.replicate 22 0#8
      else List.replicate 24 0#8)

/-- What each move of the host but a write to `CMD` and the reset input does to the machine, and what a read returns.
`ARG0` and `ARG1` are set to any value that fits them (R10, R29; that they have `AW + 1` bits and not the `AW` of D2 is log 21), a
write to any other number is ignored (U16), and a read has no side effect. Driving the launch inputs sets the three of them
(R13), and with `RUN = 0` placing a file makes FILE hold its bytes from offset 0 on and its length (R12, R137). The numbers 1 to
39 read the registers of the table of R29 in its order; `CMD` and the unassigned numbers read 0 (U15, U16); the PIH window
reads `PIH[i]` below `PIHLEN` and 0 from there on (that the read carries `i` is log 17). That the inputs are held in the state
is log 1. -/
def Obligations.HostAccessRule : Prop :=
  (∀ (s : State) (rest : List HostMove) (v reg i : Nat) (present : Bool) (key : Vector Byte 32) (bytes : List Byte),
    (s.host = .write 2 v :: rest → v < 2 ^ (Config.aw + 1) →
      step s = .next { s with eng := { s.eng with arg0 := v }, host := rest }) ∧
    (s.host = .write 3 v :: rest → v < 2 ^ (Config.aw + 1) →
      step s = .next { s with eng := { s.eng with arg1 := v }, host := rest }) ∧
    (s.host = .write reg v :: rest → reg ≠ 0 → reg ≠ 2 → reg ≠ 3 → step s = .next { s with host := rest }) ∧
    (s.host = .read reg i :: rest → step s = .next { s with host := rest }) ∧
    (s.host = .drive v present key :: rest → v < 2 ^ Config.aw →
      step s = .next { s with
        env := { s.env with flenIn := v, keyPresent := present, keyIn := key }
        host := rest }) ∧
    (s.host = .place bytes :: rest → s.eng.run = false →
      ∃ file : Memory,
        step s = .next { s with env := { s.env with file := file, fileLen := bytes.length }, host := rest } ∧
        ∀ a, a < bytes.length → bytes[a]? = some (file.read a))) ∧
  ∀ (e : Engine) (reg i : Nat),
    (List.range' 1 39).map (fun k => hostRead e k i) =
      [.num e.status.toNat, .num e.arg0, .num e.arg1, .num e.flen, .num e.acc8.toNat, .num e.acc16.toNat,
        .num e.err.kind.toNat, .num e.err.struct.toNat, .num e.err.off, .num e.err.exp.toNat, .num e.err.act,
        .num e.mainH.magic.toNat, .num e.mainH.paysz.toNat, .num e.mainH.fhsz.toNat, .num e.mainH.flags.toNat,
        .num e.mainH.cs.toNat, .bytes e.encH.nonce.toList, .num e.encH.epsz.toNat, .num e.encH.ehsz.toNat,
        .num e.encH.flags.toNat] ++
      [.num e.encH.cs.toNat, .bytes e.envTag.toList, .num e.pihlen.toNat, .num e.metaH.id.toNat,
        .num e.metaH.paysz.toNat, .num e.dataH.total.toNat, .num e.dataH.maxblk.toNat, .num e.dataH.flags.toNat,
        .num e.dataH.rsvd.toNat, .num e.dataH.fullcs.toNat, .num e.cur, .num e.bcount, .num e.prevNum.toNat,
        .num e.blkOff, .num e.blkH.num.toNat, .num e.blkH.paysz.toNat, .num e.blkH.paycs.toNat,
        .num e.blkH.flags.toNat, .num e.blkH.hcs.toNat] ∧
    (reg = 0 ∨ (49 ≤ reg ∧ reg ≤ 63) ∨ 64 < reg → hostRead e reg i = .num 0) ∧
    (i < e.pihlen.toNat → hostRead e 64 i = .num (e.pih.read i).toNat) ∧
    (e.pihlen.toNat ≤ i → hostRead e 64 i = .num 0)

/-- R30, R127: no host read shows anything of `KEY` or `KEYMAT`, and every command but `EOPEN` takes two engines that differ
only in them to two engines that differ only in them. -/
def Obligations.SecretsAreNotObservable : Prop :=
  (∀ (e f : Engine) (reg i : Nat), e.withoutSecrets = f.withoutSecrets → hostRead e reg i = hostRead f reg i) ∧
  ∀ (i : Instr) (s t : State) (f : Engine), i ≠ .eopen → s.eng.withoutSecrets = f.withoutSecrets →
    exec i s = .next t →
    ∃ g, exec i { s with eng := f } = .next { t with eng := g } ∧ t.eng.withoutSecrets = g.withoutSecrets

/-- R144: `START`, `END` and the reset input zero `KEYMAT` and PIH, with `PIHLEN`, and `KEY` (which `START` then loads); `EOPEN`
alone writes `KEYMAT` and PIH, once per pass; no other command, and no other move of the host, changes any of them. -/
def Obligations.SecretsLastForThePass : Prop :=
  (∀ s : State, ∃ t, exec .start s = .next t ∧ t.eng.keymat = Vector.replicate 32 0#8 ∧
    (∀ a, t.eng.pih.read a = 0#8) ∧ t.eng.pihlen = 0#16 ∧
    (s.env.keyPresent = false → t.eng.key = Vector.replicate 32 0#8)) ∧
  (∀ s : State, ∃ t, exec .endPass s = .next t ∧ t.eng.keymat = Vector.replicate 32 0#8 ∧
    (∀ a, t.eng.pih.read a = 0#8) ∧ t.eng.pihlen = 0#16 ∧ t.eng.key = Vector.replicate 32 0#8) ∧
  (∀ (i : Instr) (s t : State), i ≠ .start → i ≠ .endPass → exec i s = .next t →
    t.eng.key = s.eng.key ∧
    (i ≠ .eopen ∨ s.eng.openv = true →
      t.eng.keymat = s.eng.keymat ∧ t.eng.pih = s.eng.pih ∧ t.eng.pihlen = s.eng.pihlen)) ∧
  (∀ (s : State) (rest : List HostMove), s.host = .reset :: rest →
    ∃ t, step s = .next t ∧ t.eng.keymat = Vector.replicate 32 0#8 ∧ (∀ a, t.eng.pih.read a = 0#8) ∧
      t.eng.pihlen = 0#16 ∧ t.eng.key = Vector.replicate 32 0#8) ∧
  ∀ s t : State, step s = .next t →
    (t.eng.key ≠ s.eng.key →
      ∃ m rest, s.host = m :: rest ∧ (m = .reset ∨ m = .write 0 0x0001 ∨ m = .write 0 0x0002)) ∧
    (t.eng.keymat ≠ s.eng.keymat ∨ t.eng.pih ≠ s.eng.pih ∨ t.eng.pihlen ≠ s.eng.pihlen →
      ∃ m rest, s.host = m :: rest ∧
        (m = .reset ∨ m = .write 0 0x0001 ∨ m = .write 0 0x0002 ∨ (m = .write 0 0x0022 ∧ s.eng.openv = false)))

/-- R111, R112: what the engine presents to the collaborator, each output under the flag it is valid under. -/
def Obligations.TransformSideOutputs : Prop :=
  ∀ e : Engine,
    (e.openv = true → e.transformOut.keymat = e.keymat) ∧
    (e.datav = true → e.transformOut.maxblk = e.dataH.maxblk) ∧
    (e.blkv = true →
      e.transformOut.num = e.blkH.num ∧ e.transformOut.flags = e.blkH.flags ∧
      e.transformOut.payoff = e.blkOff + 8 ∧ e.transformOut.paylen = e.blkH.paysz ∧
      e.transformOut.nonce.toList =
        [e.blkH.num.extractLsb' 0 8, e.blkH.num.extractLsb' 8 8] ++ List.replicate 22 0#8)

/-- R113: the contract of the collaborator (log 13: it is no part of the engine). First the stream cipher, for a block flagged
"encrypted"; then the decompressor on the cipher's output, for a block flagged "compressed"; a block with no flag is passed
through. The two primitives are opaque. -/
def Obligations.TransformDecryptsThenDecompresses : Prop :=
  ∀ (x : TransformOut) (payload : List Byte),
    (x.flags = 0 → transformPayload x payload = .bytes payload) ∧
    transformPayload x payload =
      match (if x.flags &&& Config.blkFEnc = 0 then some payload
        else Config.streamXform x.keymat x.nonce payload) with
      | none => .failed .decryptionFailed
      | some y =>
        match (if x.flags &&& Config.blkFComp = 0 then some y else Config.decompress y x.maxblk.toNat) with
        | none => .failed .decompressionFailed
        | some z => .bytes z

/-! ### The invariant -/

/-- The reset state meets the invariant (R135, R136). -/
def Obligations.ResetMeetsTheInvariant : Prop := State.reset.Inv

/-- Every step of the machine keeps the invariant: the registers fit, an idle engine is reset, the valid flags mean what
their rules say, the cursor stays in FILE, the error codes stay legal, and both memories stay canonical (R1, R8 to R27,
R94, R95, U12, U13). -/
def Obligations.EveryStepKeepsTheInvariant : Prop :=
  ∀ s t : State, s.Inv → step s = .next t → t.Inv

/-- R63: what `PassOK` tells of a state of the invariant: the magic is right, the whole stream was walked to the end of
FILE, no error is recorded, and in a keyed pass the envelope was opened and both inner headers lie inside it. -/
def Obligations.PassOkMeansWalkedToTheEnd : Prop :=
  ∀ e : Engine, e.Inv → e.passOk = true →
    e.mainH.magic = Config.magic ∧ 58 + e.encH.ehsz.toNat ≤ e.flen ∧ e.cur = e.flen ∧ e.err.kind = 0#3 ∧
    (e.keyv = true →
      e.pihlen.toNat + 32 = e.encH.ehsz.toNat ∧ 16 + e.metaH.paysz.toNat ≤ e.pihlen.toNat)

/-- Where the model has no move (U17): FILE placed during a pass (R138), `START` with `FLEN_IN` above the length of FILE
(R137), a value wider than the register or input it goes to. That the model stops there is its choice: log 8, log 7 and log 9
(with the widths of log 21). -/
def Obligations.HostMisuseStopsTheModel : Prop :=
  ∀ (s : State) (rest : List HostMove) (bytes : List Byte) (v : Nat) (present : Bool) (key : Vector Byte 32),
    (s.host = .place bytes :: rest → s.eng.run = true → step s = .fault .fileChangedDuringPass) ∧
    (s.host = .write 0 0x0001 :: rest → s.env.fileLen < s.env.flenIn → step s = .fault .flenBeyondFile) ∧
    (s.host = .write 0 v :: rest → 2 ^ 16 ≤ v → step s = .fault .valueTooWide) ∧
    (s.host = .write 2 v :: rest ∨ s.host = .write 3 v :: rest → 2 ^ (Config.aw + 1) ≤ v →
      step s = .fault .valueTooWide) ∧
    (s.host = .drive v present key :: rest → 2 ^ Config.aw ≤ v → step s = .fault .valueTooWide)
end

