-- ==== Sys2Proof/Laws/Memory.lean ====
section
/-! SUPPORT. The laws of the byte memories: the one operation that makes a memory keeps the canonical form, reads give
back the bytes it was made of, equal contents are equal data, and slices of a read are reads. -/

namespace Sys2Proof.Machine

theorem wfFrom_mono {lo lo' : Nat} (h : lo ≤ lo') : ∀ {m : Memory}, m.wfFrom lo' = true → m.wfFrom lo = true
  | [], _ => rfl
  | (a, b) :: m, hw => by
    simp only [Memory.wfFrom, Bool.and_eq_true, decide_eq_true_eq] at hw ⊢
    exact ⟨⟨by omega, hw.1.2⟩, hw.2⟩

theorem ofBytes_wfFrom (s : List Byte) : ∀ off, (Memory.ofBytes off s).wfFrom off = true := by
  induction s with
  | nil => intro off; rfl
  | cons b s ih =>
    intro off
    by_cases hb : b = 0#8
    · simpa [Memory.ofBytes, hb] using wfFrom_mono (by omega) (ih (off + 1))
    · simpa [Memory.ofBytes, hb, Memory.wfFrom] using ih (off + 1)

/-- The memory made of a byte sequence is canonical. -/
theorem ofBytes_wf (s : List Byte) (off : Nat) : (Memory.ofBytes off s).wf = true :=
  wfFrom_mono (Nat.zero_le off) (ofBytes_wfFrom s off)

/-- The memory reset leaves is canonical (R136). -/
theorem empty_wf : Memory.wf [] = true := rfl

/-- The memory made of a byte sequence lists no offset beyond the sequence. -/
theorem ofBytes_below (s : List Byte) : ∀ off, (Memory.ofBytes off s).below (off + s.length) := by
  induction s with
  | nil => intro off c hc; simp [Memory.ofBytes] at hc
  | cons b s ih =>
    intro off c hc
    have hcons : c ∈ Memory.ofBytes (off + 1) s ∨ c = (off, b) := by
      by_cases hb : b = 0#8
      · left; simpa [Memory.ofBytes, hb] using hc
      · simpa [Memory.ofBytes, hb, or_comm] using hc
    rcases hcons with h | h
    · have := ih (off + 1) c h
      simp only [List.length_cons]; omega
    · subst h; simp

/-- A memory canonical from `lo` on reads 0 below `lo`. -/
theorem read_below_wfFrom {lo : Nat} : ∀ {m : Memory}, m.wfFrom lo = true → ∀ {a}, a < lo → m.read a = 0#8
  | [], _, _, _ => rfl
  | (b, v) :: m, hw, a, ha => by
    simp only [Memory.wfFrom, Bool.and_eq_true, decide_eq_true_eq] at hw
    have hne : a ≠ b := by omega
    simpa [Memory.read, hne] using read_below_wfFrom hw.2 (a := a) (by omega)

/-- A read of the memory made of a byte sequence gives the byte put there, and 0 elsewhere. -/
theorem read_ofBytes (s : List Byte) :
    ∀ off a, (Memory.ofBytes off s).read a = if off ≤ a then byteAt s (a - off) else 0#8 := by
  induction s with
  | nil => intro off a; simp [Memory.ofBytes, Memory.read, byteAt]
  | cons b s ih =>
    intro off a
    by_cases hlt : off ≤ a
    · rcases Nat.eq_or_lt_of_le hlt with heq | hlt'
      · subst heq
        by_cases hb : b = 0#8
        · have := read_below_wfFrom (ofBytes_wfFrom s (off + 1)) (a := off) (by omega)
          simp [Memory.ofBytes, hb, byteAt, this]
        · simp [Memory.ofBytes, hb, Memory.read, byteAt]
      · have hsub : a - off = (a - (off + 1)) + 1 := by omega
        have hne : a ≠ off := by omega
        have hle : off + 1 ≤ a := hlt'
        by_cases hb : b = 0#8 <;>
          simp [Memory.ofBytes, hb, Memory.read, hne, ih, hle, hlt, hsub, byteAt]
    · have := read_below_wfFrom (ofBytes_wfFrom (b :: s) off) (a := a) (by omega)
      simpa [hlt] using this

/-- Two canonical memories with the same contents are the same data. -/
theorem wfFrom_ext : ∀ {m n : Memory} {lo : Nat}, m.wfFrom lo = true → n.wfFrom lo = true →
    (∀ a, m.read a = n.read a) → m = n
  | [], [], _, _, _, _ => rfl
  | [], (b, w) :: n, _, _, hn, h => by
    simp only [Memory.wfFrom, Bool.and_eq_true, bne_iff_ne] at hn
    have := h b
    simp [Memory.read] at this
    exact absurd this.symm hn.1.2
  | (a, v) :: m, [], _, hm, _, h => by
    simp only [Memory.wfFrom, Bool.and_eq_true, bne_iff_ne] at hm
    have := h a
    simp [Memory.read] at this
    exact absurd this hm.1.2
  | (a, v) :: m, (b, w) :: n, _, hm, hn, h => by
    simp only [Memory.wfFrom, Bool.and_eq_true, bne_iff_ne, decide_eq_true_eq] at hm hn
    have hab : a = b := by
      rcases Nat.lt_trichotomy a b with hlt | heq | hgt
      · have := h a
        have hz := read_below_wfFrom hn.2 (a := a) (by omega)
        simp [Memory.read, Nat.ne_of_lt hlt, hz] at this
        exact absurd this hm.1.2
      · exact heq
      · have := h b
        have hz := read_below_wfFrom hm.2 (a := b) (by omega)
        simp [Memory.read, Nat.ne_of_lt hgt, hz] at this
        exact absurd this.symm hn.1.2
    subst hab
    have hv : v = w := by simpa [Memory.read] using h a
    subst hv
    have hrest : m = n := wfFrom_ext hm.2 hn.2 fun c => by
      by_cases hc : c = a
      · subst hc
        rw [read_below_wfFrom hm.2 (by omega), read_below_wfFrom hn.2 (by omega)]
      · simpa [Memory.read, hc] using h c
    rw [hrest]

/-- Equal canonical memories are equal data. -/
theorem wf_ext {m n : Memory} (hm : m.wf = true) (hn : n.wf = true) (h : ∀ a, m.read a = n.read a) : m = n :=
  wfFrom_ext hm hn h

@[simp] theorem bytes_length (m : Memory) : ∀ (n off : Nat), (m.bytes off n).length = n
  | 0, _ => rfl
  | n + 1, off => by simp [Memory.bytes, bytes_length m n]

/-- Byte `i` of a read is the byte at `off + i` (R31). -/
theorem byteAt_bytes (m : Memory) : ∀ (n off i : Nat), i < n → byteAt (m.bytes off n) i = m.read (off + i)
  | 0, _, _, h => by omega
  | n + 1, off, 0, _ => by simp [Memory.bytes, byteAt]
  | n + 1, off, i + 1, h => by
    have := byteAt_bytes m n (off + 1) i (by omega)
    simp only [byteAt] at this
    simp only [Memory.bytes, byteAt, List.getD_cons_succ, this]
    congr 1; omega

theorem drop_bytes (m : Memory) : ∀ (a off n : Nat), (m.bytes off n).drop a = m.bytes (off + a) (n - a)
  | 0, off, n => by simp
  | a + 1, off, 0 => by simp [Memory.bytes]
  | a + 1, off, n + 1 => by
    simp only [Memory.bytes, List.drop_succ_cons, drop_bytes m a, Nat.add_sub_add_right]
    congr 1; omega

theorem take_bytes (m : Memory) : ∀ (a off n : Nat), (m.bytes off n).take a = m.bytes off (min a n)
  | 0, _, _ => by simp [Memory.bytes]
  | a + 1, _, 0 => by simp [Memory.bytes]
  | a + 1, off, n + 1 => by
    rw [Nat.add_min_add_right]
    simp only [Memory.bytes, List.take_succ_cons, take_bytes m a]

/-- A slice of a read is a read (R31). -/
theorem slice_bytes (m : Memory) {off n a b : Nat} (h : b ≤ n) :
    slice (m.bytes off n) a b = m.bytes (off + a) (b - a) := by
  rw [slice, drop_bytes, take_bytes]
  congr 1; omega

/-- A read depends on the bytes it covers and on no other (R31). -/
theorem bytes_congr {m m' : Memory} : ∀ (n off : Nat),
    (∀ a, off ≤ a → a < off + n → m.read a = m'.read a) → m.bytes off n = m'.bytes off n
  | 0, _, _ => rfl
  | n + 1, off, h => by
    rw [Memory.bytes, Memory.bytes, h off (by omega) (by omega),
      bytes_congr n (off + 1) fun a h1 h2 => h a (by omega) (by omega)]

/-- A read continues where a shorter one ends. -/
theorem bytes_add (m : Memory) : ∀ (k n off : Nat), m.bytes off (k + n) = m.bytes off k ++ m.bytes (off + k) n
  | 0, n, off => by simp [Memory.bytes]
  | k + 1, n, off => by
    rw [Nat.add_right_comm, Memory.bytes, Memory.bytes, bytes_add m k n (off + 1), List.cons_append]
    congr 2; congr 1; omega

/-- Byte `i` of a byte array is byte `i` of the sequence (R34). -/
@[simp] theorem byteArray_getElem (n : Nat) (s : List Byte) (i : Nat) (h : i < n) :
    (byteArray n s)[i] = byteAt s i := by
  simp [byteArray]

/-- Bit `k` of the number of a list of flags is flag `k` (R28). -/
theorem testBit_bitsToNat : ∀ (l : List Bool) (k : Nat), (bitsToNat l).testBit k = l.getD k false
  | [], k => by simp [bitsToNat]
  | b :: bs, 0 => by cases b <;> simp [bitsToNat, Nat.testBit_zero]
  | b :: bs, k + 1 => by
    have h : (b.toNat + 2 * bitsToNat bs) / 2 = bitsToNat bs := by cases b <;> simp; omega
    rw [bitsToNat, Nat.testBit_add_one, h, testBit_bitsToNat bs k, List.getD_cons_succ]

/-- A number below `2^17` fits `AW` bits, whatever `AW` is (R1). -/
theorem lt_two_pow_aw {v : Nat} (k : Nat) (h : v < 2 ^ (17 + k)) : v < 2 ^ (Config.aw + k) := by
  refine Nat.lt_of_lt_of_le h (Nat.pow_le_pow_right (by omega) ?_)
  simp only [Config.aw]; omega

/-- What it is to fit: the first test of `fitsOffset` implies the second (R1). -/
theorem fitsOffset_iff (k v : Nat) : fitsOffset k v = true ↔ v < 2 ^ (Config.aw + k) := by
  simp only [fitsOffset, Bool.or_eq_true, decide_eq_true_eq]
  exact ⟨fun h => h.elim (lt_two_pow_aw k) id, Or.inr⟩

end Sys2Proof.Machine
end

