-- ==== Sys2Proof/Laws/PerInstr.lean ====
section
/-! SUPPORT. The family `RowOfTable`: for each command, the word the encoder gives it selects exactly one row of the opcode
map, the command's own (R52). -/

namespace Sys2Proof.Laws.RowOfTable

/-- The rows the command's word selects are one row, that of its mnemonic (R52). -/
def Statement (i : Instr) : Prop :=
  (commandTable.filter (·.selects (encode i))).map (·.mnemonic) = [i.mnemonic]

theorem nop : Statement .nop := by unfold Statement; decide
theorem start : Statement .start := by unfold Statement; decide
theorem endPass : Statement .endPass := by unfold Statement; decide
theorem csclr : Statement .csclr := by unfold Statement; decide
theorem cspush (imm8 : Byte) : Statement (.cspush imm8) := by
  revert imm8; unfold Statement; decide
theorem csrng : Statement .csrng := by unfold Statement; decide
theorem pmain : Statement .pmain := by unfold Statement; decide
theorem penc : Statement .penc := by unfold Statement; decide
theorem eopen : Statement .eopen := by unfold Statement; decide
theorem pmeta : Statement .pmeta := by unfold Statement; decide
theorem pdata : Statement .pdata := by unfold Statement; decide
theorem binit : Statement .binit := by unfold Statement; decide
theorem bnext : Statement .bnext := by unfold Statement; decide

end Sys2Proof.Laws.RowOfTable
end

