-- ==== Sys2Proof/Laws/Records.lean ====
section
/-! SUPPORT. The five records as reads at their fields' offsets (R43, R44, R47, R48, R49): one lemma per parser. -/

namespace Sys2Proof.Machine

theorem parseMain_bytes (m : Memory) (o : Nat) :
    parseMain (m.bytes o 12) =
      { magic := le32 (m.bytes o 4), paysz := le32 (m.bytes (o + 4) 4), fhsz := le16 (m.bytes (o + 8) 2)
        flags := m.read (o + 10), cs := m.read (o + 11) } := by
  simp [parseMain, slice_bytes, byteAt_bytes]

theorem parseEnc_bytes (m : Memory) (o : Nat) :
    parseEnc (m.bytes o 30) =
      { nonce := Vector.ofFn fun i => m.read (o + i.val), epsz := le16 (m.bytes (o + 24) 2)
        ehsz := le16 (m.bytes (o + 26) 2), flags := m.read (o + 28), cs := m.read (o + 29) } := by
  simp only [parseEnc, slice_bytes, byteAt_bytes, byteArray, EncHeader.mk.injEq, Nat.reduceSub, Nat.reduceLT,
    Nat.reduceLeDiff, and_self, and_true]
  congr 1; funext i; simpa using byteAt_bytes m 24 o i.val i.isLt

theorem parseMeta_bytes (m : Memory) (o : Nat) :
    parseMeta (m.bytes o 4) = { id := le16 (m.bytes o 2), paysz := le16 (m.bytes (o + 2) 2) } := by
  simp [parseMeta, slice_bytes]

theorem parseData_bytes (m : Memory) (o : Nat) :
    parseData (m.bytes o 12) =
      { total := le32 (m.bytes o 4), maxblk := le16 (m.bytes (o + 4) 2), flags := m.read (o + 6)
        rsvd := m.read (o + 7), fullcs := le32 (m.bytes (o + 8) 4) } := by
  simp [parseData, slice_bytes, byteAt_bytes]

theorem parseBlock_bytes (m : Memory) (o : Nat) :
    parseBlock (m.bytes o 8) =
      { num := le16 (m.bytes o 2), paysz := le16 (m.bytes (o + 2) 2), paycs := le16 (m.bytes (o + 4) 2)
        flags := m.read (o + 6), hcs := m.read (o + 7) } := by
  simp [parseBlock, slice_bytes, byteAt_bytes]

/-- A `u16` conversion loses nothing (R33). -/
theorem toNat_le16 (a b : Byte) : (le16 [a, b]).toNat = a.toNat + 256 * b.toNat := by
  have := a.isLt; have := b.isLt
  simp only [le16, leNat, BitVec.toNat_ofNat]; omega

end Sys2Proof.Machine
end

