-- ==== Sys2Proof/Laws/State.lean ====
section
/-! SUPPORT. One lemma per field for each shared update of the engine, and the shape of an atomic command, so that no proof
unfolds a record update. -/

namespace Sys2Proof.Machine

/-! The error entry writes the error record, `ERRF`, `BACT`, `BLKV` and nothing else (R117). -/

@[simp] theorem raise_run (k : ErrKind) (st : ErrStruct) (off exp act : Nat) (e : Engine) : (raise k st off exp act e).run = e.run := rfl
@[simp] theorem raise_ill (k : ErrKind) (st : ErrStruct) (off exp act : Nat) (e : Engine) : (raise k st off exp act e).ill = e.ill := rfl
@[simp] theorem raise_flen (k : ErrKind) (st : ErrStruct) (off exp act : Nat) (e : Engine) : (raise k st off exp act e).flen = e.flen := rfl
@[simp] theorem raise_key (k : ErrKind) (st : ErrStruct) (off exp act : Nat) (e : Engine) : (raise k st off exp act e).key = e.key := rfl
@[simp] theorem raise_keyv (k : ErrKind) (st : ErrStruct) (off exp act : Nat) (e : Engine) : (raise k st off exp act e).keyv = e.keyv := rfl
@[simp] theorem raise_arg0 (k : ErrKind) (st : ErrStruct) (off exp act : Nat) (e : Engine) : (raise k st off exp act e).arg0 = e.arg0 := rfl
@[simp] theorem raise_arg1 (k : ErrKind) (st : ErrStruct) (off exp act : Nat) (e : Engine) : (raise k st off exp act e).arg1 = e.arg1 := rfl
@[simp] theorem raise_acc8 (k : ErrKind) (st : ErrStruct) (off exp act : Nat) (e : Engine) : (raise k st off exp act e).acc8 = e.acc8 := rfl
@[simp] theorem raise_acc16 (k : ErrKind) (st : ErrStruct) (off exp act : Nat) (e : Engine) : (raise k st off exp act e).acc16 = e.acc16 := rfl
@[simp] theorem raise_mainv (k : ErrKind) (st : ErrStruct) (off exp act : Nat) (e : Engine) : (raise k st off exp act e).mainv = e.mainv := rfl
@[simp] theorem raise_mainH (k : ErrKind) (st : ErrStruct) (off exp act : Nat) (e : Engine) : (raise k st off exp act e).mainH = e.mainH := rfl
@[simp] theorem raise_encv (k : ErrKind) (st : ErrStruct) (off exp act : Nat) (e : Engine) : (raise k st off exp act e).encv = e.encv := rfl
@[simp] theorem raise_encH (k : ErrKind) (st : ErrStruct) (off exp act : Nat) (e : Engine) : (raise k st off exp act e).encH = e.encH := rfl
@[simp] theorem raise_openv (k : ErrKind) (st : ErrStruct) (off exp act : Nat) (e : Engine) : (raise k st off exp act e).openv = e.openv := rfl
@[simp] theorem raise_envTag (k : ErrKind) (st : ErrStruct) (off exp act : Nat) (e : Engine) : (raise k st off exp act e).envTag = e.envTag := rfl
@[simp] theorem raise_keymat (k : ErrKind) (st : ErrStruct) (off exp act : Nat) (e : Engine) : (raise k st off exp act e).keymat = e.keymat := rfl
@[simp] theorem raise_pih (k : ErrKind) (st : ErrStruct) (off exp act : Nat) (e : Engine) : (raise k st off exp act e).pih = e.pih := rfl
@[simp] theorem raise_pihlen (k : ErrKind) (st : ErrStruct) (off exp act : Nat) (e : Engine) : (raise k st off exp act e).pihlen = e.pihlen := rfl
@[simp] theorem raise_metav (k : ErrKind) (st : ErrStruct) (off exp act : Nat) (e : Engine) : (raise k st off exp act e).metav = e.metav := rfl
@[simp] theorem raise_metaH (k : ErrKind) (st : ErrStruct) (off exp act : Nat) (e : Engine) : (raise k st off exp act e).metaH = e.metaH := rfl
@[simp] theorem raise_datav (k : ErrKind) (st : ErrStruct) (off exp act : Nat) (e : Engine) : (raise k st off exp act e).datav = e.datav := rfl
@[simp] theorem raise_dataH (k : ErrKind) (st : ErrStruct) (off exp act : Nat) (e : Engine) : (raise k st off exp act e).dataH = e.dataH := rfl
@[simp] theorem raise_bact (k : ErrKind) (st : ErrStruct) (off exp act : Nat) (e : Engine) : (raise k st off exp act e).bact = false := rfl
@[simp] theorem raise_bend (k : ErrKind) (st : ErrStruct) (off exp act : Nat) (e : Engine) : (raise k st off exp act e).bend = e.bend := rfl
@[simp] theorem raise_blkv (k : ErrKind) (st : ErrStruct) (off exp act : Nat) (e : Engine) : (raise k st off exp act e).blkv = false := rfl
@[simp] theorem raise_prevv (k : ErrKind) (st : ErrStruct) (off exp act : Nat) (e : Engine) : (raise k st off exp act e).prevv = e.prevv := rfl
@[simp] theorem raise_prevNum (k : ErrKind) (st : ErrStruct) (off exp act : Nat) (e : Engine) : (raise k st off exp act e).prevNum = e.prevNum := rfl
@[simp] theorem raise_bcount (k : ErrKind) (st : ErrStruct) (off exp act : Nat) (e : Engine) : (raise k st off exp act e).bcount = e.bcount := rfl
@[simp] theorem raise_cur (k : ErrKind) (st : ErrStruct) (off exp act : Nat) (e : Engine) : (raise k st off exp act e).cur = e.cur := rfl
@[simp] theorem raise_blkOff (k : ErrKind) (st : ErrStruct) (off exp act : Nat) (e : Engine) : (raise k st off exp act e).blkOff = e.blkOff := rfl
@[simp] theorem raise_blkH (k : ErrKind) (st : ErrStruct) (off exp act : Nat) (e : Engine) : (raise k st off exp act e).blkH = e.blkH := rfl
@[simp] theorem raise_errf (k : ErrKind) (st : ErrStruct) (off exp act : Nat) (e : Engine) : (raise k st off exp act e).errf = true := rfl
@[simp] theorem raise_err (k : ErrKind) (st : ErrStruct) (off exp act : Nat) (e : Engine) : (raise k st off exp act e).err = ⟨k.code, st.code, off, BitVec.ofNat 32 exp, act⟩ := rfl

/-! A refusal writes `ILL` and nothing else (R55). -/

@[simp] theorem refuse_run (e : Engine) : (refuse e).run = e.run := rfl
@[simp] theorem refuse_ill (e : Engine) : (refuse e).ill = true := rfl
@[simp] theorem refuse_flen (e : Engine) : (refuse e).flen = e.flen := rfl
@[simp] theorem refuse_key (e : Engine) : (refuse e).key = e.key := rfl
@[simp] theorem refuse_keyv (e : Engine) : (refuse e).keyv = e.keyv := rfl
@[simp] theorem refuse_arg0 (e : Engine) : (refuse e).arg0 = e.arg0 := rfl
@[simp] theorem refuse_arg1 (e : Engine) : (refuse e).arg1 = e.arg1 := rfl
@[simp] theorem refuse_acc8 (e : Engine) : (refuse e).acc8 = e.acc8 := rfl
@[simp] theorem refuse_acc16 (e : Engine) : (refuse e).acc16 = e.acc16 := rfl
@[simp] theorem refuse_mainv (e : Engine) : (refuse e).mainv = e.mainv := rfl
@[simp] theorem refuse_mainH (e : Engine) : (refuse e).mainH = e.mainH := rfl
@[simp] theorem refuse_encv (e : Engine) : (refuse e).encv = e.encv := rfl
@[simp] theorem refuse_encH (e : Engine) : (refuse e).encH = e.encH := rfl
@[simp] theorem refuse_openv (e : Engine) : (refuse e).openv = e.openv := rfl
@[simp] theorem refuse_envTag (e : Engine) : (refuse e).envTag = e.envTag := rfl
@[simp] theorem refuse_keymat (e : Engine) : (refuse e).keymat = e.keymat := rfl
@[simp] theorem refuse_pih (e : Engine) : (refuse e).pih = e.pih := rfl
@[simp] theorem refuse_pihlen (e : Engine) : (refuse e).pihlen = e.pihlen := rfl
@[simp] theorem refuse_metav (e : Engine) : (refuse e).metav = e.metav := rfl
@[simp] theorem refuse_metaH (e : Engine) : (refuse e).metaH = e.metaH := rfl
@[simp] theorem refuse_datav (e : Engine) : (refuse e).datav = e.datav := rfl
@[simp] theorem refuse_dataH (e : Engine) : (refuse e).dataH = e.dataH := rfl
@[simp] theorem refuse_bact (e : Engine) : (refuse e).bact = e.bact := rfl
@[simp] theorem refuse_bend (e : Engine) : (refuse e).bend = e.bend := rfl
@[simp] theorem refuse_blkv (e : Engine) : (refuse e).blkv = e.blkv := rfl
@[simp] theorem refuse_prevv (e : Engine) : (refuse e).prevv = e.prevv := rfl
@[simp] theorem refuse_prevNum (e : Engine) : (refuse e).prevNum = e.prevNum := rfl
@[simp] theorem refuse_bcount (e : Engine) : (refuse e).bcount = e.bcount := rfl
@[simp] theorem refuse_cur (e : Engine) : (refuse e).cur = e.cur := rfl
@[simp] theorem refuse_blkOff (e : Engine) : (refuse e).blkOff = e.blkOff := rfl
@[simp] theorem refuse_blkH (e : Engine) : (refuse e).blkH = e.blkH := rfl
@[simp] theorem refuse_errf (e : Engine) : (refuse e).errf = e.errf := rfl
@[simp] theorem refuse_err (e : Engine) : (refuse e).err = e.err := rfl

/-! The checksum commands write the accumulators and nothing else (R11). -/

@[simp] theorem absorb_run (s : List Byte) (e : Engine) : (absorb s e).run = e.run := rfl
@[simp] theorem absorb_ill (s : List Byte) (e : Engine) : (absorb s e).ill = e.ill := rfl
@[simp] theorem absorb_flen (s : List Byte) (e : Engine) : (absorb s e).flen = e.flen := rfl
@[simp] theorem absorb_key (s : List Byte) (e : Engine) : (absorb s e).key = e.key := rfl
@[simp] theorem absorb_keyv (s : List Byte) (e : Engine) : (absorb s e).keyv = e.keyv := rfl
@[simp] theorem absorb_arg0 (s : List Byte) (e : Engine) : (absorb s e).arg0 = e.arg0 := rfl
@[simp] theorem absorb_arg1 (s : List Byte) (e : Engine) : (absorb s e).arg1 = e.arg1 := rfl
@[simp] theorem absorb_acc8 (s : List Byte) (e : Engine) : (absorb s e).acc8 = fold8 e.acc8 s := rfl
@[simp] theorem absorb_acc16 (s : List Byte) (e : Engine) : (absorb s e).acc16 = fold16 e.acc16 s := rfl
@[simp] theorem absorb_mainv (s : List Byte) (e : Engine) : (absorb s e).mainv = e.mainv := rfl
@[simp] theorem absorb_mainH (s : List Byte) (e : Engine) : (absorb s e).mainH = e.mainH := rfl
@[simp] theorem absorb_encv (s : List Byte) (e : Engine) : (absorb s e).encv = e.encv := rfl
@[simp] theorem absorb_encH (s : List Byte) (e : Engine) : (absorb s e).encH = e.encH := rfl
@[simp] theorem absorb_openv (s : List Byte) (e : Engine) : (absorb s e).openv = e.openv := rfl
@[simp] theorem absorb_envTag (s : List Byte) (e : Engine) : (absorb s e).envTag = e.envTag := rfl
@[simp] theorem absorb_keymat (s : List Byte) (e : Engine) : (absorb s e).keymat = e.keymat := rfl
@[simp] theorem absorb_pih (s : List Byte) (e : Engine) : (absorb s e).pih = e.pih := rfl
@[simp] theorem absorb_pihlen (s : List Byte) (e : Engine) : (absorb s e).pihlen = e.pihlen := rfl
@[simp] theorem absorb_metav (s : List Byte) (e : Engine) : (absorb s e).metav = e.metav := rfl
@[simp] theorem absorb_metaH (s : List Byte) (e : Engine) : (absorb s e).metaH = e.metaH := rfl
@[simp] theorem absorb_datav (s : List Byte) (e : Engine) : (absorb s e).datav = e.datav := rfl
@[simp] theorem absorb_dataH (s : List Byte) (e : Engine) : (absorb s e).dataH = e.dataH := rfl
@[simp] theorem absorb_bact (s : List Byte) (e : Engine) : (absorb s e).bact = e.bact := rfl
@[simp] theorem absorb_bend (s : List Byte) (e : Engine) : (absorb s e).bend = e.bend := rfl
@[simp] theorem absorb_blkv (s : List Byte) (e : Engine) : (absorb s e).blkv = e.blkv := rfl
@[simp] theorem absorb_prevv (s : List Byte) (e : Engine) : (absorb s e).prevv = e.prevv := rfl
@[simp] theorem absorb_prevNum (s : List Byte) (e : Engine) : (absorb s e).prevNum = e.prevNum := rfl
@[simp] theorem absorb_bcount (s : List Byte) (e : Engine) : (absorb s e).bcount = e.bcount := rfl
@[simp] theorem absorb_cur (s : List Byte) (e : Engine) : (absorb s e).cur = e.cur := rfl
@[simp] theorem absorb_blkOff (s : List Byte) (e : Engine) : (absorb s e).blkOff = e.blkOff := rfl
@[simp] theorem absorb_blkH (s : List Byte) (e : Engine) : (absorb s e).blkH = e.blkH := rfl
@[simp] theorem absorb_errf (s : List Byte) (e : Engine) : (absorb s e).errf = e.errf := rfl
@[simp] theorem absorb_err (s : List Byte) (e : Engine) : (absorb s e).err = e.err := rfl

/-! What a yielding `BNEXT` writes (R102). -/

@[simp] theorem yieldBlock_run (b : BlockHeader) (e : Engine) : (yieldBlock b e).run = e.run := rfl
@[simp] theorem yieldBlock_ill (b : BlockHeader) (e : Engine) : (yieldBlock b e).ill = e.ill := rfl
@[simp] theorem yieldBlock_flen (b : BlockHeader) (e : Engine) : (yieldBlock b e).flen = e.flen := rfl
@[simp] theorem yieldBlock_key (b : BlockHeader) (e : Engine) : (yieldBlock b e).key = e.key := rfl
@[simp] theorem yieldBlock_keyv (b : BlockHeader) (e : Engine) : (yieldBlock b e).keyv = e.keyv := rfl
@[simp] theorem yieldBlock_arg0 (b : BlockHeader) (e : Engine) : (yieldBlock b e).arg0 = e.arg0 := rfl
@[simp] theorem yieldBlock_arg1 (b : BlockHeader) (e : Engine) : (yieldBlock b e).arg1 = e.arg1 := rfl
@[simp] theorem yieldBlock_acc8 (b : BlockHeader) (e : Engine) : (yieldBlock b e).acc8 = e.acc8 := rfl
@[simp] theorem yieldBlock_acc16 (b : BlockHeader) (e : Engine) : (yieldBlock b e).acc16 = e.acc16 := rfl
@[simp] theorem yieldBlock_mainv (b : BlockHeader) (e : Engine) : (yieldBlock b e).mainv = e.mainv := rfl
@[simp] theorem yieldBlock_mainH (b : BlockHeader) (e : Engine) : (yieldBlock b e).mainH = e.mainH := rfl
@[simp] theorem yieldBlock_encv (b : BlockHeader) (e : Engine) : (yieldBlock b e).encv = e.encv := rfl
@[simp] theorem yieldBlock_encH (b : BlockHeader) (e : Engine) : (yieldBlock b e).encH = e.encH := rfl
@[simp] theorem yieldBlock_openv (b : BlockHeader) (e : Engine) : (yieldBlock b e).openv = e.openv := rfl
@[simp] theorem yieldBlock_envTag (b : BlockHeader) (e : Engine) : (yieldBlock b e).envTag = e.envTag := rfl
@[simp] theorem yieldBlock_keymat (b : BlockHeader) (e : Engine) : (yieldBlock b e).keymat = e.keymat := rfl
@[simp] theorem yieldBlock_pih (b : BlockHeader) (e : Engine) : (yieldBlock b e).pih = e.pih := rfl
@[simp] theorem yieldBlock_pihlen (b : BlockHeader) (e : Engine) : (yieldBlock b e).pihlen = e.pihlen := rfl
@[simp] theorem yieldBlock_metav (b : BlockHeader) (e : Engine) : (yieldBlock b e).metav = e.metav := rfl
@[simp] theorem yieldBlock_metaH (b : BlockHeader) (e : Engine) : (yieldBlock b e).metaH = e.metaH := rfl
@[simp] theorem yieldBlock_datav (b : BlockHeader) (e : Engine) : (yieldBlock b e).datav = e.datav := rfl
@[simp] theorem yieldBlock_dataH (b : BlockHeader) (e : Engine) : (yieldBlock b e).dataH = e.dataH := rfl
@[simp] theorem yieldBlock_bact (b : BlockHeader) (e : Engine) : (yieldBlock b e).bact = e.bact := rfl
@[simp] theorem yieldBlock_bend (b : BlockHeader) (e : Engine) : (yieldBlock b e).bend = e.bend := rfl
@[simp] theorem yieldBlock_blkv (b : BlockHeader) (e : Engine) : (yieldBlock b e).blkv = true := rfl
@[simp] theorem yieldBlock_prevv (b : BlockHeader) (e : Engine) : (yieldBlock b e).prevv = true := rfl
@[simp] theorem yieldBlock_prevNum (b : BlockHeader) (e : Engine) : (yieldBlock b e).prevNum = b.num := rfl
@[simp] theorem yieldBlock_bcount (b : BlockHeader) (e : Engine) : (yieldBlock b e).bcount = e.bcount + 1 := rfl
@[simp] theorem yieldBlock_cur (b : BlockHeader) (e : Engine) : (yieldBlock b e).cur = e.cur + Config.blkhdrSize + b.paysz.toNat := rfl
@[simp] theorem yieldBlock_blkOff (b : BlockHeader) (e : Engine) : (yieldBlock b e).blkOff = e.cur := rfl
@[simp] theorem yieldBlock_blkH (b : BlockHeader) (e : Engine) : (yieldBlock b e).blkH = b := rfl
@[simp] theorem yieldBlock_errf (b : BlockHeader) (e : Engine) : (yieldBlock b e).errf = e.errf := rfl
@[simp] theorem yieldBlock_err (b : BlockHeader) (e : Engine) : (yieldBlock b e).err = e.err := rfl

/-! The fixed sizes are numbers (R3). -/

@[simp] theorem mainSize_eq : Config.mainSize = 12 := by decide
@[simp] theorem encSize_eq : Config.encSize = 30 := by decide
@[simp] theorem aadSize_eq : Config.aadSize = 42 := by decide
@[simp] theorem tagSize_eq : Config.tagSize = 16 := by decide
@[simp] theorem keymatSize_eq : Config.keymatSize = 32 := by decide
@[simp] theorem metaFixed_eq : Config.metaFixed = 4 := by decide
@[simp] theorem dataSize_eq : Config.dataSize = 12 := by decide
@[simp] theorem blkhdrSize_eq : Config.blkhdrSize = 8 := by decide

/-- `ehs` is the value of `ENC_EHSZ` (R44). -/
theorem ehs_eq (e : Engine) : e.ehs = e.encH.ehsz.toNat := by
  unfold Engine.ehs; exact Eq.refl _

/-- The stream begins at `58 + ehs` (R100). -/
theorem streamStart_eq (e : Engine) : e.streamStart = 58 + e.encH.ehsz.toNat := by
  simp only [Engine.streamStart, ehs_eq, aadSize_eq, tagSize_eq]; omega

/-- The blob is the ciphertext and the tag (R45). -/
theorem blobSize_eq (e : Engine) : e.blobSize = e.encH.ehsz.toNat + 16 := by
  simp only [Engine.blobSize, ehs_eq, tagSize_eq]

/-- The DataHeader stands at `4 + META_PAYSZ` (R48). -/
theorem dataOffset_eq (e : Engine) : e.dataOffset = 4 + e.metaH.paysz.toNat := by
  simp only [Engine.dataOffset, metaFixed_eq]

/-- A command answers a next state that differs at most in the engine (R58). -/
theorem runCommand_eq (i : Instr) (f : Env → Engine → Engine) (s : State) :
    runCommand i f s =
      .next { s with eng := if precondition i s.eng then f s.env s.eng else refuse s.eng } := rfl

/-- A command whose precondition holds has its effect (R58). -/
theorem runCommand_ready {i : Instr} {s : State} (f : Env → Engine → Engine) (h : precondition i s.eng = true) :
    runCommand i f s = .next { s with eng := f s.env s.eng } := by
  simp [runCommand, h]

/-- A command whose precondition fails only sets `ILL` (R55). -/
theorem runCommand_refused {i : Instr} {s : State} (f : Env → Engine → Engine) (h : precondition i s.eng = false) :
    runCommand i f s = .next { s with eng := refuse s.eng } := by
  simp [runCommand, h]

/-- `RUN = 1` and `ERRF = 0` is what a decode command needs first (R59). -/
@[simp] theorem decoding_iff (e : Engine) : e.decoding = true ↔ e.run = true ∧ e.errf = false := by
  simp [Engine.decoding]

end Sys2Proof.Machine
end

