-- ==== Sys2Proof/Laws/Step.lean ====
section
/-! SUPPORT. What a command and a step can do, said once: a command's effect on the engine, the inversion of `exec`, and the
cases of a step; and the laws the decoder is read with. -/

namespace Sys2Proof.Machine

/-- The engine after a command whose precondition holds (R59 to R102). -/
def effect (i : Instr) (env : Env) (e : Engine) : Engine :=
  match i with
  | .nop => e
  | .start => startEffect env e
  | .endPass => Engine.reset
  | .csclr => { e with acc8 := 0#8, acc16 := 0#16 }
  | .cspush imm8 => absorb [imm8] e
  | .csrng => absorb (env.fileBytes e.arg0 e.arg1) e
  | .pmain => pmainEffect env e
  | .penc => pencEffect env e
  | .eopen => eopenEffect env e
  | .pmeta => pmetaEffect env e
  | .pdata => pdataEffect env e
  | .binit => binitEffect env e
  | .bnext => bnextEffect env e

/-- Every command is atomic: its effect, or a refusal, on the engine alone (R58). -/
theorem exec_eq (i : Instr) (s : State) :
    exec i s =
      .next { s with eng := if precondition i s.eng then effect i s.env s.eng else refuse s.eng } := by
  cases i <;> rfl

/-- What a next state of a command is. -/
theorem eq_of_exec {i : Instr} {s t : State} (h : exec i s = .next t) :
    t = { s with eng := if precondition i s.eng then effect i s.env s.eng else refuse s.eng } := by
  rw [exec_eq] at h; cases h; rfl

/-- A command whose precondition holds has its effect. -/
theorem exec_ready {i : Instr} {s : State} (h : precondition i s.eng = true) :
    exec i s = .next { s with eng := effect i s.env s.eng } := by
  rw [exec_eq, if_pos h]

/-- A command whose precondition fails is refused. -/
theorem exec_refused {i : Instr} {s : State} (h : precondition i s.eng = false) :
    exec i s = .next { s with eng := refuse s.eng } := by
  rw [exec_eq]; simp [h]

/-- A word is its immediate above its opcode (R51). -/
theorem immediate_append_opcode (w : Half) : imm8Of w ++ opcodeOf w = w := by
  apply BitVec.eq_of_toNat_eq
  have := w.isLt
  rw [BitVec.toNat_append, ← Nat.shiftLeft_add_eq_or_of_lt (opcodeOf w).isLt]
  simp only [imm8Of, opcodeOf, BitVec.extractLsb'_toNat, Nat.shiftLeft_eq, Nat.shiftRight_eq_div_pow]
  omega

theorem implicitCommand_table : ∀ op : Byte,
    (match implicitCommand op with
      | none => true
      | some i => opcode i == op && immediate i == 0#8) = true := by
  decide

/-- A command found by its opcode has that opcode, and takes no immediate (R52, R53). -/
theorem opcode_of_implicitCommand {op : Byte} {i : Instr} (h : implicitCommand op = some i) :
    opcode i = op ∧ immediate i = 0#8 := by
  have := implicitCommand_table op
  rw [h] at this
  simpa using this

/-- Everything a step that answers a next state can have been. -/
inductive StepCase (s t : State) : Prop
  | idle (h : s.host = []) (ht : t = s)
  | reserved (rest : List HostMove) (v : Nat) (h : s.host = .write 0 v :: rest)
      (ht : t = { s with eng := refuse s.eng, host := rest })
  | command (rest : List HostMove) (v : Nat) (i : Instr) (h : s.host = .write 0 v :: rest) (hv : v < 2 ^ 16)
      (hd : decode (BitVec.ofNat 16 v) = .ok i) (hs : i = .start → s.env.flenIn ≤ s.env.fileLen)
      (ht : t = { s with
        eng := if precondition i s.eng then effect i s.env s.eng else refuse s.eng
        host := rest })
  | arg0 (rest : List HostMove) (v : Nat) (h : s.host = .write 2 v :: rest) (hv : v < 2 ^ (Config.aw + 1))
      (ht : t = { s with eng := { s.eng with arg0 := v }, host := rest })
  | arg1 (rest : List HostMove) (v : Nat) (h : s.host = .write 3 v :: rest) (hv : v < 2 ^ (Config.aw + 1))
      (ht : t = { s with eng := { s.eng with arg1 := v }, host := rest })
  | ignored (m : HostMove) (rest : List HostMove) (h : s.host = m :: rest) (ht : t = { s with host := rest })
  | drive (rest : List HostMove) (n : Nat) (present : Bool) (key : Vector Byte 32)
      (h : s.host = .drive n present key :: rest) (hn : n < 2 ^ Config.aw)
      (ht : t = { s with
        env := { s.env with flenIn := n, keyPresent := present, keyIn := key }
        host := rest })
  | place (rest : List HostMove) (bytes : List Byte) (h : s.host = .place bytes :: rest) (hr : s.eng.run = false)
      (ht : t = { s with
        env := { s.env with file := Memory.ofBytes 0 bytes, fileLen := bytes.length }
        host := rest })
  | reset (rest : List HostMove) (h : s.host = .reset :: rest)
      (ht : t = { s with eng := Engine.reset, host := rest })

/-- The inversion of a step. -/
theorem stepCase_of_step {s t : State} (h : step s = .next t) : StepCase s t := by
  simp only [step, nextMove] at h
  split at h
  · rename_i hh; cases h; exact .idle hh rfl
  · rename_i m rest hh
    cases m with
    | read r i => simp only [hostMove, hostReadMove] at h; cases h; exact .ignored _ _ hh rfl
    | reset => simp only [hostMove, hostReset] at h; cases h; exact .reset _ hh rfl
    | place l =>
      simp only [hostMove, hostPlace] at h
      split at h
      · cases h
      · rename_i hr; cases h; exact .place _ _ hh (by simpa using hr) rfl
    | drive a b c =>
      simp only [hostMove, hostDrive] at h
      split at h
      · rename_i hr; cases h; exact .drive _ _ _ _ hh (by simpa using (fitsOffset_iff 0 a).1 hr) rfl
      · cases h
    | write r v =>
      simp only [hostMove, hostWrite] at h
      split at h
      · rename_i hf
        split at h
        · rename_i hr; subst hr
          simp only [issue] at h
          split at h
          · cases h; exact .reserved _ _ hh rfl
          · rename_i i hd
            split at h
            · cases h
            · rename_i hs
              exact .command _ _ i hh (by simpa [fitsRegister] using hf) hd
                (by intro hi; subst hi; simpa using hs) (eq_of_exec h)
        · split at h
          · rename_i hr; subst hr; cases h
            exact .arg0 _ _ hh ((fitsOffset_iff 1 v).1 (by simpa [fitsRegister] using hf)) rfl
          · split at h
            · rename_i hr; subst hr; cases h
              exact .arg1 _ _ hh ((fitsOffset_iff 1 v).1 (by simpa [fitsRegister] using hf)) rfl
            · cases h; exact .ignored _ _ hh rfl
      · cases h

end Sys2Proof.Machine
end

