-- ==== Sys2Proof/Laws/Verdict.lean ====
section
/-! SUPPORT. The decode commands in two halves, for proofs: a verdict, which reads a few named values and says which error is
raised or what was parsed, and the writes that settle it. Each command's effect is shown equal to the two halves together, so
that a proof about what a command reads looks at the verdict and a proof about what it writes looks at the writes. -/

namespace Sys2Proof.Machine

/-- What a decode command decides: an error with its record, or a value it parsed. -/
inductive Verdict (α : Type) where
  | fails (kind : ErrKind) (struct : ErrStruct) (off exp act : Nat)
  | passes (a : α)

/-- The writes of a verdict: the error entry, or the command's own. -/
def Verdict.settle {α : Type} (v : Verdict α) (writes : α → Engine → Engine) (e : Engine) : Engine :=
  match v with
  | .fails kind struct off exp act => raise kind struct off exp act e
  | .passes a => writes a e

/-- Settling a verdict commutes with any change of the engine that the error entry and the writes commute with. -/
theorem settle_comm {α : Type} (v : Verdict α) (writes : α → Engine → Engine) (g : Engine → Engine) (e : Engine)
    (hr : ∀ k st off exp act, raise k st off exp act (g e) = g (raise k st off exp act e))
    (hw : ∀ a, writes a (g e) = g (writes a e)) : v.settle writes (g e) = g (v.settle writes e) := by
  cases v <;> simp [Verdict.settle, hr, hw]

/-- What holds of the error entry and of the writes holds of the settled verdict. -/
theorem settle_of {α : Type} {P : Engine → Prop} (v : Verdict α) (writes : α → Engine → Engine) (e : Engine)
    (hr : ∀ k st off exp act, v = .fails k st off exp act → P (raise k st off exp act e))
    (hw : ∀ a, v = .passes a → P (writes a e)) : P (v.settle writes e) := by
  cases v with
  | fails k st off exp act => exact hr k st off exp act rfl
  | passes a => exact hw a rfl

/-- What `PMAIN` reads: `FLEN` and `FILE[0, 12)` (R75). -/
def pmainVerdict (flen : Nat) (file : Memory) : Verdict MainHeader :=
  if flen < 12 then .fails .truncatedInput .main 0 12 flen
  else if le32 (file.bytes 0 4) ≠ Config.magic then
    .fails .badMagic .main 0 Config.magic.toNat (le32 (file.bytes 0 4)).toNat
  else if csum8 (file.bytes 0 11) ≠ file.read 11 then
    .fails .checksumMismatch .main 11 (csum8 (file.bytes 0 11)).toNat (file.read 11).toNat
  else .passes (parseMain (file.bytes 0 12))

theorem pmainEffect_eq (env : Env) (e : Engine) :
    pmainEffect env e =
      (pmainVerdict e.flen env.file).settle (fun h e => { e with mainH := h, mainv := true }) e := by
  have h1 : slice (env.file.bytes 0 12) 0 4 = env.file.bytes 0 4 := slice_bytes _ (by omega)
  have h2 : slice (env.file.bytes 0 12) 0 11 = env.file.bytes 0 11 := slice_bytes _ (by omega)
  have h3 : byteAt (env.file.bytes 0 12) 11 = env.file.read 11 := byteAt_bytes _ _ _ _ (by omega)
  simp only [pmainEffect, pmainVerdict, Env.fileBytes, mainSize_eq, h1, h2, h3]
  split_ifs <;> rfl

/-- What `PENC` reads: `FLEN` and `FILE[12, 42)` (R80). -/
def pencVerdict (flen : Nat) (file : Memory) : Verdict EncHeader :=
  if flen - 12 < 30 then .fails .truncatedInput .enc 12 30 (flen - 12)
  else if csum8 (file.bytes 12 29) ≠ file.read 41 then
    .fails .checksumMismatch .enc 41 (csum8 (file.bytes 12 29)).toNat (file.read 41).toNat
  else .passes (parseEnc (file.bytes 12 30))

theorem pencEffect_eq (env : Env) (e : Engine) :
    pencEffect env e = (pencVerdict e.flen env.file).settle (fun h e => { e with encH := h, encv := true }) e := by
  have h1 : slice (env.file.bytes 12 30) 0 29 = env.file.bytes 12 29 := slice_bytes _ (by omega)
  have h2 : byteAt (env.file.bytes 12 30) 29 = env.file.read 41 := byteAt_bytes _ _ _ _ (by omega)
  simp only [pencEffect, pencVerdict, Env.fileBytes, mainSize_eq, encSize_eq, h1, h2]
  split_ifs <;> rfl

/-- What `EOPEN` decides from `FLEN`, `ENC_EHSZ` and the primitive's reply; it passes with the tag and the plaintext (R88). -/
def eopenVerdict (flen ehs : Nat) (tag : Vector Byte 16) (reply : AeadReply) : Verdict (Vector Byte 16 × List Byte) :=
  if flen - 42 < ehs + 16 then .fails .truncatedInput .blob 42 (ehs + 16) (flen - 42)
  else
    match reply with
    | .authFailure => .fails .decryptionFailed .blob 42 0 0
    | .plaintext p =>
      if p.length ≠ ehs then .fails .decryptionFailed .blob 42 ehs (p.length % 2 ^ 32)
      else if ehs < 32 then .fails .truncatedInput .inner 0 32 ehs
      else .passes (tag, p)

theorem eopenEffect_eq (env : Env) (e : Engine) :
    eopenEffect env e =
      (eopenVerdict e.flen e.ehs (envelopeTag env e) (env.aeadOpen (envelopeRequest env e))).settle
        (fun opened e =>
          { e with
            envTag := opened.1
            keymat := byteArray 32 (slice opened.2 0 32)
            pih := Memory.ofBytes 0 (slice opened.2 32 e.ehs)
            pihlen := BitVec.ofNat 16 (e.ehs - 32)
            openv := true }) e := by
  simp only [eopenEffect, eopenVerdict, blobSize_eq, ehs_eq, aadSize_eq]
  cases env.aeadOpen (envelopeRequest env e) with
  | authFailure => simp only [acceptReply, aadSize_eq]; split_ifs <;> rfl
  | plaintext p =>
    simp only [acceptReply, keymatSize_eq, aadSize_eq, ehs_eq]
    split_ifs <;> rfl

/-- What `PMETA` reads: `PIHLEN` and `PIH[0, 4)` (R94). -/
def pmetaVerdict (len : Nat) (pih : Memory) : Verdict MetaHeader :=
  if len < 4 then .fails .truncatedInput .metaHdr 0 4 len
  else if len - 4 < (parseMeta (pih.bytes 0 4)).paysz.toNat then
    .fails .truncatedInput .metaHdr 4 (parseMeta (pih.bytes 0 4)).paysz.toNat (len - 4)
  else .passes (parseMeta (pih.bytes 0 4))

theorem pmetaEffect_eq (env : Env) (e : Engine) :
    pmetaEffect env e =
      (pmetaVerdict e.pihlen.toNat e.pih).settle (fun h e => { e with metaH := h, metav := true }) e := by
  simp only [pmetaEffect, pmetaVerdict, Engine.pihBytes, metaFixed_eq]
  split_ifs <;> rfl

/-- What `PDATA` reads: `PIHLEN` and the 12 bytes of PIH from `o = 4 + META_PAYSZ` on (R95). -/
def pdataVerdict (len o : Nat) (pih : Memory) : Verdict DataHeader :=
  if len - o < 12 then .fails .truncatedInput .data o 12 (len - o)
  else .passes (parseData (pih.bytes o 12))

theorem pdataEffect_eq (env : Env) (e : Engine) :
    pdataEffect env e =
      (pdataVerdict e.pihlen.toNat (4 + e.metaH.paysz.toNat) e.pih).settle
        (fun h e => { e with dataH := h, datav := true }) e := by
  simp only [pdataEffect, pdataVerdict, Engine.pihBytes, dataOffset_eq, dataSize_eq]
  split_ifs <;> rfl

/-- What `BINIT` reads: `FLEN` and `ENC_EHSZ` (R101). -/
def binitVerdict (flen ehs : Nat) : Verdict Nat :=
  if flen < 58 + ehs then .fails .truncatedInput .blob 42 (ehs + 16) (flen - 42) else .passes (58 + ehs)

theorem binitEffect_eq (env : Env) (e : Engine) :
    binitEffect env e =
      (binitVerdict e.flen e.ehs).settle
        (fun start e =>
          { e with
            cur := start, prevv := false, prevNum := 0#16, bcount := 0, blkv := false, blkOff := 0
            blkH := { num := 0#16, paysz := 0#16, paycs := 0#16, flags := 0#8, hcs := 0#8 }
            bend := false, bact := true }) e := by
  simp only [binitEffect, binitVerdict, streamStart_eq, blobSize_eq, ehs_eq, aadSize_eq]
  split_ifs <;> rfl

/-- What `BNEXT` reads: `FLEN`, `CUR`, `PREVV`, `PREV_NUM` and `FILE[CUR, CUR + 8)`; it passes with `none` at the clean
end (R102). -/
def bnextVerdict (flen cur : Nat) (prevv : Bool) (prevNum : Half) (file : Memory) : Verdict (Option BlockHeader) :=
  let h := parseBlock (file.bytes cur 8)
  if flen - cur = 0 then .passes none
  else if flen - cur < 8 then .fails .truncatedInput .block cur 8 (flen - cur)
  else if csum8 (file.bytes cur 7) ≠ h.hcs then
    .fails .checksumMismatch .block (cur + 7) (csum8 (file.bytes cur 7)).toNat h.hcs.toNat
  else if flen - cur - 8 < h.paysz.toNat then
    .fails .truncatedInput .block (cur + 8) h.paysz.toNat (flen - cur - 8)
  else if prevv = true ∧ h.num.toNat ≠ prevNum.toNat + 1 then
    .fails .sequenceMismatch .block cur (prevNum.toNat + 1) h.num.toNat
  else .passes (some h)

theorem bnextEffect_eq (env : Env) (e : Engine) :
    bnextEffect env e =
      (bnextVerdict e.flen e.cur e.prevv e.prevNum env.file).settle
        (fun found e =>
          match found with
          | none => { e with bact := false, bend := true, blkv := false }
          | some h => yieldBlock h e) e := by
  have h1 : slice (env.file.bytes e.cur 8) 0 7 = env.file.bytes e.cur 7 := slice_bytes _ (by omega)
  simp only [bnextEffect, bnextVerdict, Env.fileBytes, blkhdrSize_eq, h1]
  split_ifs <;> rfl

/-- A command commutes with a change `g` of the engine, `k` of the inputs, that its precondition does not see, that its
effect commutes with, and that leaves `ILL` alone. -/
theorem exec_comm {i : Instr} {s t : State} (g : Engine → Engine) (k : Env → Env) (h : exec i s = .next t)
    (hp : precondition i (g s.eng) = precondition i s.eng)
    (he : precondition i s.eng = true → effect i (k s.env) (g s.eng) = g (effect i s.env s.eng))
    (hr : refuse (g s.eng) = g (refuse s.eng)) :
    exec i { s with eng := g s.eng, env := k s.env } = .next { t with eng := g t.eng, env := k t.env } := by
  rw [eq_of_exec h, exec_eq]
  simp only [hp]
  split
  · rw [he (by assumption)]
  · rw [hr]

/-! What each verdict reads of a memory: nothing at or beyond the length it is given (R31, R32). -/

theorem pmainVerdict_congr {m m' : Memory} {flen : Nat}
    (h : ∀ a, a < 12 → a < flen → m.read a = m'.read a) : pmainVerdict flen m = pmainVerdict flen m' := by
  unfold pmainVerdict
  by_cases hl : flen < 12
  · rw [if_pos hl, if_pos hl]
  · have h4 : m.bytes 0 4 = m'.bytes 0 4 := bytes_congr 4 0 fun a _ ha => h a (by omega) (by omega)
    have h11 : m.bytes 0 11 = m'.bytes 0 11 := bytes_congr 11 0 fun a _ ha => h a (by omega) (by omega)
    have h12 : m.bytes 0 12 = m'.bytes 0 12 := bytes_congr 12 0 fun a _ ha => h a (by omega) (by omega)
    rw [h4, h11, h12, h 11 (by omega) (by omega)]

theorem pencVerdict_congr {m m' : Memory} {flen : Nat}
    (h : ∀ a, 12 ≤ a → a < 42 → a < flen → m.read a = m'.read a) : pencVerdict flen m = pencVerdict flen m' := by
  unfold pencVerdict
  by_cases hl : flen - 12 < 30
  · rw [if_pos hl, if_pos hl]
  · have h29 : m.bytes 12 29 = m'.bytes 12 29 := bytes_congr 29 12 fun a _ ha => h a (by omega) (by omega) (by omega)
    have h30 : m.bytes 12 30 = m'.bytes 12 30 := bytes_congr 30 12 fun a _ ha => h a (by omega) (by omega) (by omega)
    rw [h29, h30, h 41 (by omega) (by omega) (by omega)]

theorem bnextVerdict_congr {m m' : Memory} {flen cur : Nat} {prevv : Bool} {prevNum : Half}
    (h : ∀ a, cur ≤ a → a < cur + 8 → a < flen → m.read a = m'.read a) :
    bnextVerdict flen cur prevv prevNum m = bnextVerdict flen cur prevv prevNum m' := by
  unfold bnextVerdict
  by_cases hl : flen - cur < 8
  · simp only [if_pos hl]
  · have h7 : m.bytes cur 7 = m'.bytes cur 7 := bytes_congr 7 cur fun a _ ha => h a (by omega) (by omega) (by omega)
    have h8 : m.bytes cur 8 = m'.bytes cur 8 := bytes_congr 8 cur fun a _ ha => h a (by omega) (by omega) (by omega)
    rw [h7, h8]

/-- The request covers `FILE[0, 58 + ehs)` and no other byte (R82, R83, R85). -/
theorem envelopeRequest_congr {env env' : Env} {e : Engine}
    (h : ∀ a, a < 58 + e.ehs → env.file.read a = env'.file.read a) : envelopeRequest env e = envelopeRequest env' e := by
  have h1 : env.file.bytes 42 e.ehs = env'.file.bytes 42 e.ehs := bytes_congr _ _ fun a _ ha => h a (by omega)
  have h2 : env.file.bytes (42 + e.ehs) 16 = env'.file.bytes (42 + e.ehs) 16 :=
    bytes_congr _ _ fun a _ ha => h a (by omega)
  have h3 : env.file.bytes 0 42 = env'.file.bytes 0 42 := bytes_congr _ _ fun a _ ha => h a (by omega)
  simp only [envelopeRequest, envelopeCt, envelopeTag, envelopeAad, Env.fileBytes, aadSize_eq, tagSize_eq]
  rw [h1, h2, h3]

end Sys2Proof.Machine
end

