-- ==== Sys2Proof/Tests/Slice0.lean ====
section
/-! SUPPORT. Tests of single steps against the vectors V1 to V77 and programs P1 to P5 of 95_test_vectors.md, and for every
statement with hypotheses a witness: states and operands that meet them, clause by clause, at the ends of their ranges. -/

namespace Sys2Proof.Tests

open Sys2Proof Sys2Proof.Machine

/-! ### Building blocks of 95_test_vectors.md -/

/-- `MAIN_A`. -/
def mainA : List Byte := [0x01, 0x56, 0x34, 0x19, 0x0C, 0x00, 0x00, 0x00, 0x3A, 0x00, 0x00, 0x90]

/-- `MAIN_B`. -/
def mainB : List Byte := [0x01, 0x56, 0x34, 0x19, 0x78, 0x56, 0x34, 0x12, 0xCD, 0xAB, 0x03, 0xF7]

/-- The nonce `00 01 .. 17`. -/
def nonce : List Byte :=
  [0x00, 0x01, 0x02, 0x03, 0x04, 0x05, 0x06, 0x07, 0x08, 0x09, 0x0A, 0x0B] ++
    [0x0C, 0x0D, 0x0E, 0x0F, 0x10, 0x11, 0x12, 0x13, 0x14, 0x15, 0x16, 0x17]

/-- `ENC_n` for an `n` below 256 and its checksum. -/
def enc (n cs : Byte) : List Byte := nonce ++ [0, 0, n, 0, 0, cs]

/-- `BLK_D`. -/
def blkD : List Byte := [0x00, 0x00, 0x04, 0x00, 0x95, 0x01, 0x00, 0x26, 0xDE, 0xAD, 0xBE, 0xEF]

/-- The file of P2, 70 bytes. -/
def fileP2 : List Byte := mainA ++ enc 0 0x81 ++ List.replicate 16 0 ++ blkD

/-- The machine in a pass over a file: `FLEN` is its length, the rest of the engine as given. -/
def pass (file : List Byte) (e : Engine) : State where
  eng := { e with run := true, flen := file.length }
  env := { Env.none with file := Memory.ofBytes 0 file, fileLen := file.length, flenIn := file.length }
  host := []

/-- A value of the engine after a command that answered a next state. -/
def after {α : Type} (f : Engine → α) (o : Host.Outcome State Fault Refusal) : Option α :=
  match o with
  | .next t => some (f t.eng)
  | .fault _ => none
  | .refused _ => none

/-- `ERR(kind, struct, off, exp, act)`. -/
def errOf (e : Engine) : BitVec 3 × BitVec 3 × Nat × Word × Nat :=
  (e.err.kind, e.err.struct, e.err.off, e.err.exp, e.err.act)

/-- After `PMAIN`. -/
def afterMain : Engine :=
  { Engine.reset with mainv := true, mainH := { Engine.reset.mainH with magic := Config.magic } }

/-- After `PENC`, with the given `ENC_EHSZ`. -/
def afterEnc (ehs : Half) : Engine :=
  { afterMain with encv := true, encH := { Engine.reset.encH with ehsz := ehs, nonce := byteArray 24 nonce } }

/-- After `PENC` with a key. -/
def afterEncKeyed (ehs : Half) : Engine := { afterEnc ehs with keyv := true }

/-- After `EOPEN`, with the given PIH. -/
def afterOpen (pih : List Byte) : Engine :=
  { afterEncKeyed (BitVec.ofNat 16 (pih.length + 32)) with
    openv := true, pih := Memory.ofBytes 0 pih, pihlen := BitVec.ofNat 16 pih.length }

/-- After `PMETA`, with the given PIH and `META_PAYSZ`. -/
def afterMeta (pih : List Byte) (paysz : Half) : Engine :=
  { afterOpen pih with metav := true, metaH := { id := 1#16, paysz := paysz } }

/-- With the block stream open at `cur`, no block yielded yet. -/
def streaming (cur : Nat) : Engine := { afterEnc 0 with bact := true, cur := cur }

/-- With the block stream open and a block yielded: the block numbered `num`, empty, ending at `cur`. -/
def streamingAfter (num : Half) (cur : Nat) : Engine :=
  { streaming cur with
    prevv := true, prevNum := num, bcount := 1, blkv := true, blkOff := cur - 8
    blkH := { Engine.reset.blkH with num := num } }

/-- A pass in which the primitive gives that reply to the request `EOPEN` will make. -/
def passReplying (file : List Byte) (e : Engine) (reply : AeadReply) : State :=
  let s := pass file e
  { s with env := { s.env with aead := [(envelopeRequest s.env s.eng, reply)] } }

/-! ### Well-formed words and decoding (R52, R53, R55) -/

theorem test_reserved_opcode_refused : wordAllocated 0x0003#16 = false := by decide
theorem test_reserved_immediate_refused : wordAllocated 0x0120#16 = false := by decide
theorem test_all_ones_refused : wordAllocated 0xFFFF#16 = false := by decide
theorem test_push_any_immediate_allocated : wordAllocated 0xFF11#16 = true := by decide

theorem test_decode_control :
    decode 0b0000000000000000#16 = .ok .nop ∧ decode 0b0000000000000001#16 = .ok .start ∧
      decode 0b0000000000000010#16 = .ok .endPass := by decide

theorem test_decode_checksum :
    decode 0b0000000000010000#16 = .ok .csclr ∧ decode 0b0100000100010001#16 = .ok (.cspush 0x41) ∧
      decode 0b0000000000010010#16 = .ok .csrng := by decide

theorem test_decode_headers :
    decode 0b0000000000100000#16 = .ok .pmain ∧ decode 0b0000000000100001#16 = .ok .penc ∧
      decode 0b0000000000100010#16 = .ok .eopen ∧ decode 0b0000000000100011#16 = .ok .pmeta ∧
      decode 0b0000000000100100#16 = .ok .pdata := by decide

theorem test_decode_stream :
    decode 0b0000000000110000#16 = .ok .binit ∧ decode 0b0000000000110001#16 = .ok .bnext := by decide

/-- V68 to V70: the words no row selects. -/
theorem test_decode_refuses :
    decode 0x0003#16 = .error (.reservedOpcode 0x03) ∧
      decode 0x0120#16 = .error (.reservedImmediate 0x20 0x01) ∧
      decode 0xFFFF#16 = .error (.reservedOpcode 0xFF) := by decide

/-- No word selects two rows: the rows are pairwise different in some bit both fix (R52). -/
theorem test_rows_disjoint :
    commandTable.Pairwise fun r q => (r.pattern ^^^ q.pattern) &&& r.mask &&& q.mask ≠ 0 := by decide

/-- The command is placed for the next step (R51). -/
theorem test_withFetchWord :
    (after (·.acc8) (step (State.reset.withFetchWord 16 0x4111))) = some 0x41 := by decide

/-! ### Checksums and conversion -/

/-- V5, the source's example. -/
theorem test_csum_source : csum8 [1, 2, 3] = 0x44 ∧ csum16 [1, 2, 3] = 0x4004 := by decide

/-- V6: the carry out of 8 bits is discarded. -/
theorem test_csum_carry : csum8 [0xFF, 0xFF] = 0xFE ∧ csum16 [0xFF, 0xFF] = 0x817E := by decide

/-- V14. -/
theorem test_csum_digits :
    csum8 [0x31, 0x32, 0x33, 0x34, 0x35, 0x36, 0x37, 0x38, 0x39] = 0xC0 ∧
      csum16 [0x31, 0x32, 0x33, 0x34, 0x35, 0x36, 0x37, 0x38, 0x39] = 0xD16F := by decide

/-- V26. -/
theorem test_little_endian :
    le16 [0xCD, 0xAB] = 0xABCD ∧ le32 [0x78, 0x56, 0x34, 0x12] = 0x12345678 := by decide

/-! ### One step of each command -/

/-- V72. -/
theorem test_nop :
    after (·.status) (exec .nop (pass [] { Engine.reset with errf := true, ill := true })) = some 0xC01 := by decide

/-- V74: with a key. -/
theorem test_start :
    after (fun e => (e.status, e.flen, e.key, e.acc8))
      (exec .start { State.reset with
        eng := { Engine.reset with acc8 := 0x44, ill := true }
        env := { Env.none with flenIn := 120, keyPresent := true, keyIn := Vector.replicate 32 0x40 } }) =
      some (0x3, 120, Vector.replicate 32 0x40, 0) := by decide

/-- R60: without a key `KEY_IN` is not taken. -/
theorem test_start_keyless :
    after (fun e => (e.status, e.key))
      (exec .start { State.reset with env := { Env.none with keyIn := Vector.replicate 32 0x40 } }) =
      some (0x1, Vector.replicate 32 0) := by decide

/-- V73. -/
theorem test_end : after id (exec .endPass (pass mainA (afterOpen [1, 2, 3]))) = some Engine.reset := by decide

/-- V18. -/
theorem test_csclr :
    after (fun e => (e.acc8, e.acc16))
      (exec .csclr { State.reset with eng := { Engine.reset with acc8 := 0x44, acc16 := 0x4004 } }) =
      some (0, 0) := by decide

/-- V19: a zero byte still rotates. -/
theorem test_cspush_zero :
    after (fun e => (e.acc8, e.acc16))
      (exec (.cspush 0) { State.reset with eng := { Engine.reset with acc8 := 1, acc16 := 1 } }) =
      some (0x80, 0x8000) := by decide

/-- V20. -/
theorem test_cspush_wraps :
    after (fun e => (e.acc8, e.acc16))
      (exec (.cspush 0xFF) { State.reset with eng := { Engine.reset with acc8 := 0xFF, acc16 := 0xFF } }) =
      some (0xFE, 0x817E) := by decide

/-- V21, its second `CSRNG`. -/
theorem test_csrng :
    after (fun e => (e.acc8, e.acc16))
      (exec .csrng (pass mainA { Engine.reset with arg0 := 5, arg1 := 6, acc8 := 0x80, acc16 := 0x5030 })) =
      some (0x90, 0x414F) := by decide

/-- V23: an empty range with `RUN = 0`. -/
theorem test_csrng_idle : after (·.status) (exec .csrng State.reset) = some 0x800 := by decide

/-- V28. -/
theorem test_pmain_fields :
    after (fun e => (e.status, e.mainH)) (exec .pmain (pass mainB Engine.reset)) =
      some (0x5, { magic := 0x19345601, paysz := 0x12345678, fhsz := 0xABCD, flags := 0x03, cs := 0xF7 }) := by decide

/-- V31: the magic is tested before the checksum. -/
theorem test_pmain_magic :
    after (fun e => (e.status, errOf e)) (exec .pmain (pass (mainA.set 0 0xFE) Engine.reset)) =
      some (0x401, 2, 1, 0, 0x19345601, 0x193456FE) := by decide

/-- V35. -/
theorem test_penc :
    after (fun e => (e.status, e.encH)) (exec .penc (pass (mainA ++ enc 0 0x81) afterMain)) =
      some (0xD, { nonce := byteArray 24 nonce, epsz := 0, ehsz := 0, flags := 0, cs := 0x81 }) := by decide +kernel

/-- V38. -/
theorem test_penc_checksum :
    after (fun e => (e.status, errOf e)) (exec .penc (pass ((mainA ++ enc 0 0x81).set 12 0x80) afterMain)) =
      some (0x405, 3, 2, 41, 0x89, 0x81) := by decide +kernel

/-- V50's opening: the first 32 bytes are the key material, the rest PIH. -/
theorem test_eopen :
    after (fun e => (e.status, e.keymat, e.pih, e.pihlen))
      (exec .eopen (passReplying (List.replicate 96 0) (afterEncKeyed 38)
        (.plaintext (List.replicate 32 7 ++ [1, 0, 5, 0, 0xAA, 0xBB])))) =
      some (0x1F, Vector.replicate 32 7, [(0, 1), (2, 5), (4, 0xAA), (5, 0xBB)], 6) := by decide +kernel

/-- V40: one byte short, and the primitive is not called. -/
theorem test_eopen_truncated :
    after (fun e => (e.status, errOf e)) (exec .eopen (pass (List.replicate 107 0) (afterEncKeyed 50))) =
      some (0x40F, 1, 3, 42, 66, 65) := by decide

/-- P4. -/
theorem test_pmeta :
    after (fun e => (e.status, e.metaH))
      (exec .pmeta (pass [] (afterOpen [0x34, 0x12, 0x02, 0x00, 0xCA, 0xFE]))) =
      some (0x3F, { id := 0x1234, paysz := 2 }) := by decide

/-- V50: five payload bytes declared, two there. -/
theorem test_pmeta_truncated :
    after (fun e => (e.status, errOf e)) (exec .pmeta (pass [] (afterOpen [1, 0, 5, 0, 0xAA, 0xBB]))) =
      some (0x41F, 1, 5, 4, 5, 2) := by decide

/-- V52: reserved fields are stored, trailing bytes ignored. -/
theorem test_pdata :
    after (fun e => (e.status, e.dataH))
      (exec .pdata (pass []
        (afterMeta ([1, 0, 0, 0, 1, 0, 0, 0, 0x10, 0] ++ [0xFF, 0xEE, 1, 2, 3, 4, 0x99, 0x99, 0x99]) 0))) =
      some (0x7F, { total := 1, maxblk := 0x10, flags := 0xFF, rsvd := 0xEE, fullcs := 0x04030201 }) := by decide

/-- V51. -/
theorem test_pdata_truncated :
    after (fun e => (e.status, errOf e))
      (exec .pdata (pass [] (afterMeta ([1, 0, 0, 0] ++ List.replicate 11 0x55) 0))) =
      some (0x43F, 1, 6, 4, 12, 11) := by decide

/-- V54: FILE may end where the stream begins. -/
theorem test_binit :
    after (fun e => (e.status, e.cur)) (exec .binit (pass (List.replicate 58 0) (afterEnc 0))) =
      some (0x8D, 58) := by decide

/-- V55: the file ends inside the tag. -/
theorem test_binit_truncated :
    after (fun e => (e.status, errOf e)) (exec .binit (pass (List.replicate 57 0) (afterEnc 0))) =
      some (0x40D, 1, 3, 42, 16, 15) := by decide

/-- P2, the first `BNEXT`. -/
theorem test_bnext :
    after (fun e => (e.status, e.blkOff, e.blkH, e.cur, e.bcount)) (exec .bnext (pass fileP2 (streaming 58))) =
      some (0x18D, 58, { num := 0, paysz := 4, paycs := 0x0195, flags := 0, hcs := 0x26 }, 70, 1) := by decide

/-- V64: no wrap after block 65535. -/
theorem test_bnext_no_wrap :
    after (fun e => (e.status, errOf e)) (exec .bnext (pass (List.replicate 74 0) (streamingAfter 0xFFFF 66))) =
      some (0x40D, 6, 7, 66, 0x10000, 0) := by decide

/-- V76. -/
theorem test_nonce : (nonceOf 0x0102).toList = [2, 1] ++ List.replicate 22 0 := by decide

/-- R63: the state at the end of P2 is a successful pass. -/
theorem test_passOk :
    (pass fileP2 { streamingAfter 0 70 with bact := false, blkv := false, bend := true }).eng.passOk = true := by
  decide

/-! ### The invariant on small states -/

/-- A value below `2^17` fits an `AW`-bit register (R1). -/
theorem small_fits {v : Nat} (h : v < 2 ^ 17) : v < 2 ^ Config.aw := lt_two_pow_aw 0 h

/-- A value below `2^17` fits an `AW + 1`-bit register (R1). -/
theorem small_fits_wide {v : Nat} (h : v < 2 ^ 17) : v < 2 ^ (Config.aw + 1) :=
  lt_two_pow_aw 1 (Nat.lt_trans h (by decide))

/-- A value below `2^17` fits `ERR_ACT` (R27). -/
theorem small_fits_act {v : Nat} (h : v < 2 ^ 17) : v < 2 ^ max 32 Config.aw :=
  Nat.lt_of_lt_of_le (small_fits h) (Nat.pow_le_pow_right (by omega) (by omega))

/-- Small registers fit, whatever `AW` is. -/
theorem fits_of_small {e : Engine}
    (h : e.flen < 2 ^ 17 ∧ e.arg0 < 2 ^ 17 ∧ e.arg1 < 2 ^ 17 ∧ e.bcount < 2 ^ 17 ∧ e.cur < 2 ^ 17 ∧
      e.blkOff < 2 ^ 17 ∧ e.err.off < 2 ^ 17 ∧ e.err.act < 2 ^ 17) : e.Fits :=
  ⟨small_fits h.1, small_fits_wide h.2.1, small_fits_wide h.2.2.1, small_fits h.2.2.2.1, small_fits_wide h.2.2.2.2.1,
    small_fits_wide h.2.2.2.2.2.1, small_fits_wide h.2.2.2.2.2.2.1, small_fits_act h.2.2.2.2.2.2.2⟩

/-- The invariant of the inputs of `pass`. -/
theorem pass_env (file : List Byte) (h : file.length < 2 ^ 17) (e : Engine) : (pass file e).env.Inv :=
  ⟨ofBytes_wf file 0, by have := ofBytes_below file 0; rwa [Nat.zero_add] at this, small_fits h⟩

/-- A clean pass over the 58 bytes of V54, walked to its end (R63). -/
def walked : Engine := { (pass (List.replicate 58 0) (afterEnc 0)).eng with cur := 58, bend := true }

/-- The stream of V54 open at its end. -/
def atEnd : State := pass (List.replicate 58 0) (streaming 58)

/-- A keyed pass with every header parsed, `ehs = 48`, walked to its end. -/
def walkedKeyed : Engine :=
  { (pass (List.replicate 106 0) (afterMeta (List.replicate 16 1) 0)).eng with datav := true, cur := 106, bend := true }

/-- An open stream with `n` bytes from its beginning on. -/
def openAt (stream : List Byte) : State := pass (List.replicate 58 0 ++ stream) (streaming 58)

theorem openAt_inv (stream : List Byte) (h : stream.length < 1000) : (openAt stream).eng.Inv where
  fits := fits_of_small (by simp [openAt, pass, streaming, afterEnc, afterMain, Engine.reset]; omega)
  idle := by intro h; simp [openAt, pass] at h
  stages := by
    constructor <;> simp [openAt, pass, streaming, afterEnc, afterMain, Engine.reset]
  stream := by
    constructor <;> simp [openAt, pass, streaming, afterEnc, afterMain, Engine.reset, Engine.ehs]
  errors := by constructor <;> simp [openAt, pass, streaming, afterEnc, afterMain, Engine.reset]
  pihWf := rfl
  pihBelow := by intro c hc; simp [openAt, pass, streaming, afterEnc, afterMain, Engine.reset] at hc

/-- The engine of a pass just begun. -/
theorem begun_inv (file : List Byte) (h : file.length < 1000) : (pass file Engine.reset).eng.Inv where
  fits := fits_of_small (by simp [pass, Engine.reset]; omega)
  idle := by intro h; simp [pass] at h
  stages := by constructor <;> simp [pass, Engine.reset]
  stream := by constructor <;> simp [pass, Engine.reset]
  errors := by constructor <;> simp [pass, Engine.reset]
  pihWf := rfl
  pihBelow := by intro c hc; simp [pass, Engine.reset] at hc

theorem walked_inv : walked.Inv where
  fits := fits_of_small (by decide)
  idle := by intro h; simp [walked, pass] at h
  stages := by constructor <;> decide
  stream := by constructor <;> decide
  errors := by constructor <;> decide
  pihWf := rfl
  pihBelow := by intro c hc; simp [walked, pass, afterEnc, afterMain, Engine.reset] at hc

theorem walkedKeyed_inv : walkedKeyed.Inv where
  fits := fits_of_small (by decide)
  idle := by intro h; simp [walkedKeyed, pass] at h
  stages := by constructor <;> decide
  stream := by constructor <;> decide
  errors := by constructor <;> decide
  pihWf := by decide
  pihBelow := ofBytes_below _ 0

/-- A keyed pass at `EOPEN`, with no ciphertext. -/
def atOpen (reply : AeadReply) : State := passReplying (List.replicate 58 0) (afterEncKeyed 0) reply

theorem atOpen_inv (reply : AeadReply) : (atOpen reply).eng.Inv where
  fits := fits_of_small (by simp [atOpen, passReplying, pass, afterEncKeyed, afterEnc, afterMain, Engine.reset])
  idle := by intro h; simp [atOpen, passReplying, pass] at h
  stages := by constructor <;> simp [atOpen, passReplying, pass, afterEncKeyed, afterEnc, afterMain, Engine.reset]
  stream := by constructor <;> simp [atOpen, passReplying, pass, afterEncKeyed, afterEnc, afterMain, Engine.reset]
  errors := by constructor <;> simp [atOpen, passReplying, pass, afterEncKeyed, afterEnc, afterMain, Engine.reset]
  pihWf := rfl
  pihBelow := by intro c hc; simp [atOpen, passReplying, pass, afterEncKeyed, afterEnc, afterMain, Engine.reset] at hc

/-- A keyed pass at `EOPEN` with `ehs = 32`, whose opening succeeds. -/
def atOpen32 (acc : Byte) : State :=
  passReplying (List.replicate 90 0) { afterEncKeyed 32 with acc8 := acc } (.plaintext (List.replicate 32 7))

/-- A stream with one block walked and block 1 to come. -/
def atSecond : State := pass (List.replicate 66 0 ++ [1, 0, 0, 0, 0, 0, 0, 4]) (streamingAfter 0 66)

theorem atSecond_inv : atSecond.eng.Inv where
  fits := fits_of_small (by decide)
  idle := by intro h; simp [atSecond, pass] at h
  stages := by constructor <;> decide
  stream := by constructor <;> decide
  errors := by constructor <;> decide
  pihWf := rfl
  pihBelow := by intro c hc; simp [atSecond, pass, streamingAfter, streaming, afterEnc, afterMain, Engine.reset] at hc

/-! ### Witnesses, one theorem for each statement with hypotheses -/

/-- With the host about to make that move. -/
def withMove (s : State) (m : HostMove) : State := { s with host := [m] }

theorem witness_DecodeReadsTheOpcodeMap :
    (decode 0xFF11#16 = .ok (.cspush 0xFF) ∧ 0xFF11#16 &&& 0x00FF#16 = 0x0011#16) ∧
      decode 0x0000#16 = .ok .nop := by decide

/-- `START` with `FLEN_IN` equal to the length of FILE; and a host with no move. -/
theorem witness_StepRunsTheDecodedCommand :
    ((withMove (pass fileP2 Engine.reset) (.write 0 1)).host = .write 0 (0x0001#16).toNat :: [] ∧
      decode 0x0001#16 = .ok .start ∧
      (withMove (pass fileP2 Engine.reset) (.write 0 1)).env.flenIn ≤
        (withMove (pass fileP2 Engine.reset) (.write 0 1)).env.fileLen) ∧
    State.reset.host = [] := by decide

theorem witness_ReservedWordOnlySetsIll :
    (withMove State.reset (.write 0 0x0120)).host = .write 0 (0x0120#16).toNat :: [] ∧
      ∀ r ∈ commandTable, 0x0120#16 &&& r.mask ≠ r.pattern := by decide

/-- `RUN = 0` refuses every row; a pass refuses `CSRNG` one byte past `FLEN`, `PENC` before `PMAIN` and `EOPEN` without a
key. -/
theorem witness_RefusedOutsideThePrecondition :
    State.reset.eng.run = false ∧
    (¬((pass [0] { Engine.reset with arg0 := 1, arg1 := 1 }).eng.run = true ∧
      (pass [0] { Engine.reset with arg0 := 1, arg1 := 1 }).eng.arg0 +
        (pass [0] { Engine.reset with arg0 := 1, arg1 := 1 }).eng.arg1 ≤
        (pass [0] { Engine.reset with arg0 := 1, arg1 := 1 }).eng.flen)) ∧
    (pass [] Engine.reset).eng.mainv = false ∧ (pass [] (afterEnc 0)).eng.keyv = false := by decide

theorem witness_IllIsStickyAndAlone :
    (∃ t, step (withMove (pass [] { Engine.reset with ill := true }) (.write 0 2)) = .next t ∧
      (pass [] { Engine.reset with ill := true }).eng.ill = true ∧ t.eng.ill = false) ∧
    ∃ t, exec .pmain State.reset = .next t ∧ State.reset.eng.ill = false ∧ t.eng.ill = true :=
  ⟨⟨_, rfl, by decide, by decide⟩, ⟨_, rfl, by decide, by decide⟩⟩

theorem witness_RunChangesOnlyByStartEndReset :
    (∃ t, step (withMove State.reset (.write 0 1)) = .next t ∧ State.reset.eng.run = false ∧ t.eng.run = true) ∧
    ∃ t, step (withMove (pass [] Engine.reset) (.write 0 2)) = .next t ∧
      (pass [] Engine.reset).eng.run = true ∧ t.eng.run = false :=
  ⟨⟨_, rfl, by decide, by decide⟩, ⟨_, rfl, by decide, by decide⟩⟩

theorem witness_ResetInputLeavesTheEndState :
    (withMove (pass mainA afterMain) .reset).host = .reset :: [] := by decide

/-- A range that ends at `FLEN` and one that ends a byte beyond it. -/
theorem witness_CsrngRule :
    (let e := (pass mainA { Engine.reset with arg0 := 12, arg1 := 0 }).eng;
      e.run = true ∧ e.arg0 + e.arg1 ≤ e.flen) ∧
    (let e := (pass mainA { Engine.reset with arg0 := 12, arg1 := 1 }).eng;
      ¬(e.run = true ∧ e.arg0 + e.arg1 ≤ e.flen)) := by decide

theorem witness_OneChangedByteIsAlwaysDetected : (0x00#8 : Byte) ≠ 0x01#8 := by decide

theorem witness_CsumPseudoCommand :
    let s := { pass fileP2 Engine.reset with host := pseudoCsum 0 70 }
    s.host = pseudoCsum 0 70 ++ [] ∧ s.eng.run = true ∧ 0 + 70 ≤ s.eng.flen ∧ s.eng.flen < 2 ^ Config.aw :=
  ⟨by decide, by decide, by decide, small_fits (by decide)⟩

/-- Two files that agree in their first 12 bytes only. -/
theorem witness_NoReadAtOrBeyondFlen :
    (pass mainA Engine.reset).env.agreeBelow
      { (pass mainA Engine.reset).env with file := Memory.ofBytes 0 (mainA ++ [0xFF]) } 12 ∧
    (pass mainA Engine.reset).eng.flen = 12 ∧ ∃ t, exec .pmain (pass mainA Engine.reset) = .next t := by
  refine ⟨⟨by decide, rfl, rfl, rfl, rfl⟩, by decide, ⟨_, rfl⟩⟩

theorem witness_FileIsImmutableDuringAPass :
    (∃ t, exec .pmain (pass mainA Engine.reset) = .next t) ∧
    ∃ t, step (withMove (pass mainA Engine.reset) (.write 0 0x20)) = .next t ∧
      (pass mainA Engine.reset).eng.run = true :=
  ⟨⟨_, rfl⟩, ⟨_, rfl, by decide⟩⟩

/-- `FLEN` 11 and 12, a wrong magic, a wrong checksum, and V27. -/
theorem witness_PmainRule :
    (¬(State.reset.eng.run = true ∧ State.reset.eng.errf = false ∧ State.reset.eng.mainv = false)) ∧
    (let s := pass (mainA.take 11) Engine.reset;
      s.eng.run = true ∧ s.eng.errf = false ∧ s.eng.mainv = false ∧ s.eng.flen < 12) ∧
    (let s := pass (mainA.set 0 0xFE) Engine.reset;
      s.eng.run = true ∧ s.eng.errf = false ∧ s.eng.mainv = false ∧ 12 ≤ s.eng.flen ∧
        le32 (s.env.file.bytes 0 4) ≠ Config.magic) ∧
    (let s := pass (mainA.set 11 0x91) Engine.reset;
      s.eng.run = true ∧ s.eng.errf = false ∧ s.eng.mainv = false ∧ 12 ≤ s.eng.flen ∧
        le32 (s.env.file.bytes 0 4) = Config.magic ∧ csum8 (s.env.file.bytes 0 11) ≠ s.env.file.read 11) ∧
    (let s := pass mainA Engine.reset;
      s.eng.run = true ∧ s.eng.errf = false ∧ s.eng.mainv = false ∧ 12 ≤ s.eng.flen ∧
        le32 (s.env.file.bytes 0 4) = Config.magic ∧ csum8 (s.env.file.bytes 0 11) = s.env.file.read 11) := by
  decide +kernel

theorem witness_PmainRoundTrips :
    let s := pass mainA Engine.reset
    let m := mainA.take 11
    s.eng.run = true ∧ s.eng.errf = false ∧ s.eng.mainv = false ∧ 12 ≤ s.eng.flen ∧ m.length = 11 ∧
      m.take 4 = [0x01#8, 0x56#8, 0x34#8, 0x19#8] ∧ s.env.file.bytes 0 12 = m ++ [csum8 m] := by
  decide +kernel

/-- `FLEN` 41 and 42, and V38. -/
theorem witness_PencRule :
    (¬(State.reset.eng.run = true ∧ State.reset.eng.errf = false ∧ State.reset.eng.mainv = true ∧
      State.reset.eng.encv = false)) ∧
    (let s := pass ((mainA ++ enc 0 0x81).take 41) afterMain;
      s.eng.run = true ∧ s.eng.errf = false ∧ s.eng.mainv = true ∧ s.eng.encv = false ∧ 12 ≤ s.eng.flen ∧
        s.eng.flen - 12 < 30) ∧
    (let s := pass ((mainA ++ enc 0 0x81).set 12 0x80) afterMain;
      s.eng.run = true ∧ s.eng.errf = false ∧ s.eng.mainv = true ∧ s.eng.encv = false ∧ 30 ≤ s.eng.flen - 12 ∧
        csum8 (s.env.file.bytes 12 29) ≠ s.env.file.read 41) ∧
    (let s := pass (mainA ++ enc 0 0x81) afterMain;
      s.eng.run = true ∧ s.eng.errf = false ∧ s.eng.mainv = true ∧ s.eng.encv = false ∧ 30 ≤ s.eng.flen - 12 ∧
        csum8 (s.env.file.bytes 12 29) = s.env.file.read 41) := by
  decide +kernel

/-- What `EOPEN` needs, with the fixed reply (R59). -/
def openReady (s : State) (reply : AeadReply) : Prop :=
  s.eng.run = true ∧ s.eng.errf = false ∧ s.eng.encv = true ∧ s.eng.keyv = true ∧ s.eng.openv = false ∧
    42 ≤ s.eng.flen ∧ s.env.aeadOpen (envelopeRequest s.env s.eng) = reply

/-- One byte short; the verdict; a plaintext of one byte for none; `ehs` 31 and 32. -/
theorem witness_EopenRule :
    (¬(State.reset.eng.run = true ∧ State.reset.eng.errf = false ∧ State.reset.eng.encv = true ∧
      State.reset.eng.keyv = true ∧ State.reset.eng.openv = false)) ∧
    (let s := passReplying (List.replicate 57 0) (afterEncKeyed 0) .authFailure;
      openReady s .authFailure ∧ s.eng.flen - 42 < s.eng.encH.ehsz.toNat + 16) ∧
    (let s := atOpen .authFailure;
      openReady s .authFailure ∧ s.eng.encH.ehsz.toNat + 16 ≤ s.eng.flen - 42) ∧
    (let s := atOpen (.plaintext [1]);
      openReady s (.plaintext [1]) ∧ s.eng.encH.ehsz.toNat + 16 ≤ s.eng.flen - 42 ∧
        [1#8].length ≠ s.eng.encH.ehsz.toNat) ∧
    (let s := passReplying (List.replicate 89 0) (afterEncKeyed 31) (.plaintext (List.replicate 31 7));
      openReady s (.plaintext (List.replicate 31 7)) ∧ s.eng.encH.ehsz.toNat + 16 ≤ s.eng.flen - 42 ∧
        (List.replicate 31 7#8).length = s.eng.encH.ehsz.toNat ∧ s.eng.encH.ehsz.toNat < 32) ∧
    (let s := atOpen32 0;
      openReady s (.plaintext (List.replicate 32 7)) ∧ s.eng.encH.ehsz.toNat + 16 ≤ s.eng.flen - 42 ∧
        (List.replicate 32 7#8).length = s.eng.encH.ehsz.toNat ∧ 32 ≤ s.eng.encH.ehsz.toNat) := by
  unfold openReady; decide +kernel

theorem witness_FailedEopenReturnsNoPlaintext :
    (∃ t, exec .eopen (atOpen .authFailure) = .next t ∧ t.eng.openv = false) ∧ (atOpen .authFailure).eng.Inv :=
  ⟨⟨_, rfl, by decide +kernel⟩, atOpen_inv _⟩

/-- Two passes that differ in the accumulator. -/
theorem witness_EopenIsDeterministic :
    let s := atOpen32 0
    let s' := atOpen32 1
    (s'.env.file = s.env.file ∧ s'.env.aead = s.env.aead ∧ s'.eng.key = s.eng.key ∧ s'.eng.encH = s.eng.encH ∧
      s.eng.openv = false ∧ s'.eng.openv = false) ∧
    (∃ t, exec .eopen s = .next t ∧ t.eng.openv = true) ∧ ∃ t, exec .eopen s' = .next t ∧ t.eng.openv = true :=
  ⟨by decide +kernel, ⟨_, rfl, by decide +kernel⟩, ⟨_, rfl, by decide +kernel⟩⟩

theorem witness_AbsentKey :
    (pass [] (afterEnc 0)).eng.keyv = false ∧
    ((openAt []).eng.Inv ∧ (openAt []).eng.keyv = false) ∧
    (∃ t, exec .pmain (atOpen .authFailure) = .next t) ∧ (∃ t, exec .penc (atOpen .authFailure) = .next t) ∧
    (∃ t, exec .binit (atOpen .authFailure) = .next t) ∧ ∃ t, exec .bnext (openAt blkD) = .next t :=
  ⟨by decide, ⟨openAt_inv _ (by decide), by decide⟩, ⟨_, rfl⟩, ⟨_, rfl⟩, ⟨_, rfl⟩, ⟨_, rfl⟩⟩

/-- A file of zeros, and one with another byte in the tag. -/
theorem witness_KeylessPassSkipsTheBlob :
    (openAt (List.replicate 8 0)).eng.Inv ∧ (openAt (List.replicate 8 0)).eng.keyv = false ∧
    (∃ t, exec .bnext (openAt (List.replicate 8 0)) = .next t) ∧
    ∀ a, a < 42 ∨ 58 + (openAt (List.replicate 8 0)).eng.encH.ehsz.toNat ≤ a →
      Memory.read [(57, 9#8)] a = (openAt (List.replicate 8 0)).env.file.read a := by
  refine ⟨openAt_inv _ (by decide), by decide, ⟨_, rfl⟩, fun a ha => ?_⟩
  have h0 : (openAt (List.replicate 8 0)).eng.encH.ehsz.toNat = 0 := by decide
  have h1 : (openAt (List.replicate 8 0)).env.file = [] := by decide
  have h2 : a ≠ 57 := by omega
  rw [h1]
  simp [Memory.read, h2]

/-- `PIHLEN` 3 and 4; five payload bytes declared of two. -/
theorem witness_PmetaRule :
    (¬(State.reset.eng.run = true ∧ State.reset.eng.errf = false ∧ State.reset.eng.openv = true ∧
      State.reset.eng.metav = false)) ∧
    (let e := (pass [] (afterOpen [1, 0, 0])).eng;
      e.run = true ∧ e.errf = false ∧ e.openv = true ∧ e.metav = false ∧ e.pihlen.toNat < 4) ∧
    (let e := (pass [] (afterOpen [1, 0, 5, 0, 0xAA, 0xBB])).eng;
      e.run = true ∧ e.errf = false ∧ e.openv = true ∧ e.metav = false ∧ 4 ≤ e.pihlen.toNat ∧
        e.pihlen.toNat - 4 < (le16 (e.pih.bytes 2 2)).toNat) ∧
    (let e := (pass [] (afterOpen [1, 0, 0, 0])).eng;
      e.run = true ∧ e.errf = false ∧ e.openv = true ∧ e.metav = false ∧ 4 ≤ e.pihlen.toNat ∧
        (le16 (e.pih.bytes 2 2)).toNat ≤ e.pihlen.toNat - 4) := by
  decide +kernel

/-- 11 and 12 bytes left for the DataHeader. -/
theorem witness_PdataRule :
    (¬(State.reset.eng.run = true ∧ State.reset.eng.errf = false ∧ State.reset.eng.metav = true ∧
      State.reset.eng.datav = false)) ∧
    (let e := (pass [] (afterMeta (List.replicate 15 0) 0)).eng;
      e.run = true ∧ e.errf = false ∧ e.metav = true ∧ e.datav = false ∧ 4 + e.metaH.paysz.toNat ≤ e.pihlen.toNat ∧
        e.pihlen.toNat - (4 + e.metaH.paysz.toNat) < 12) ∧
    (let e := (pass [] (afterMeta (List.replicate 16 0) 0)).eng;
      e.run = true ∧ e.errf = false ∧ e.metav = true ∧ e.datav = false ∧
        12 ≤ e.pihlen.toNat - (4 + e.metaH.paysz.toNat)) := by
  decide +kernel

/-- A command of the stream, the two commands R77 names, and `START` and `END`. -/
theorem witness_StoredFieldsAreNotInterpreted :
    (∃ t, exec .bnext (openAt blkD) = .next t ∧ t.eng.blkv = true) ∧
    (∃ t, exec .penc (pass (mainA ++ enc 0 0x81) afterMain) = .next t ∧ t.eng.encv = true) ∧
    (∃ t, exec .pmeta (pass [] (afterOpen [1, 0, 0, 0])) = .next t ∧ t.eng.metav = true) ∧
    (∃ t, exec .start State.reset = .next t ∧ (Instr.start = .start ∨ Instr.start = .endPass)) ∧
    ∃ t, exec .endPass (pass mainA afterMain) = .next t ∧ (Instr.endPass = .start ∨ Instr.endPass = .endPass) :=
  ⟨⟨_, rfl, by decide +kernel⟩, ⟨_, rfl, by decide +kernel⟩, ⟨_, rfl, by decide +kernel⟩, ⟨_, rfl, .inl rfl⟩,
    ⟨_, rfl, .inr rfl⟩⟩

theorem witness_AccumulatorsAreTheChecksumUnits :
    (Instr.pmain ≠ .start ∧ Instr.pmain ≠ .endPass ∧ Instr.pmain ≠ .csclr ∧ (∀ imm8, Instr.pmain ≠ .cspush imm8) ∧
      Instr.pmain ≠ .csrng) ∧ ∃ t, exec .pmain (pass mainA Engine.reset) = .next t :=
  ⟨by decide, ⟨_, rfl⟩⟩

/-- `FLEN` 57 and 58. -/
theorem witness_BinitRule :
    (¬(State.reset.eng.run = true ∧ State.reset.eng.errf = false ∧ State.reset.eng.encv = true)) ∧
    (let e := (pass (List.replicate 57 0) (afterEnc 0)).eng;
      e.run = true ∧ e.errf = false ∧ e.encv = true ∧ 42 ≤ e.flen ∧ e.flen < 58 + e.encH.ehsz.toNat) ∧
    (let e := (pass (List.replicate 58 0) (afterEnc 0)).eng;
      e.run = true ∧ e.errf = false ∧ e.encv = true ∧ 58 + e.encH.ehsz.toNat ≤ e.flen) := by
  decide +kernel

/-- What the clauses of `BnextRule` test, of a state with the stream open: `rem`, whether the header checksum is right,
`payloadSize`, and whether the sequence check passes. -/
def bnextTests (s : State) : Bool × Nat × Bool × Nat × Bool :=
  (s.eng.run && !s.eng.errf && s.eng.bact && decide (s.eng.cur ≤ s.eng.flen), s.eng.flen - s.eng.cur,
    csum8 (s.env.file.bytes s.eng.cur 7) == s.env.file.read (s.eng.cur + 7),
    (le16 (s.env.file.bytes (s.eng.cur + 2) 2)).toNat,
    !s.eng.prevv || (le16 (s.env.file.bytes s.eng.cur 2)).toNat == s.eng.prevNum.toNat + 1)

/-- The clean end; 7 bytes; a wrong checksum; a payload of 4 with 3 there; block 0 after 65535; a first block and block 1
after 0. -/
theorem witness_BnextRule :
    State.reset.eng.bact = false ∧
    (bnextTests atEnd).1 = true ∧ (bnextTests atEnd).2.1 = 0 ∧
    (bnextTests (openAt (blkD.take 7))).1 = true ∧ (bnextTests (openAt (blkD.take 7))).2.1 = 7 ∧
    bnextTests (openAt (blkD.set 7 0x27)) = (true, 12, false, 4, true) ∧
    bnextTests (openAt (blkD.take 11)) = (true, 11, true, 4, true) ∧
    bnextTests (pass (List.replicate 74 0) (streamingAfter 0xFFFF 66)) = (true, 8, true, 0, false) ∧
    bnextTests (openAt blkD) = (true, 12, true, 4, true) ∧ bnextTests atSecond = (true, 8, true, 0, true) := by
  decide +kernel

theorem witness_BlocksTileTheStream :
    (atSecond.eng.Inv ∧ atSecond.eng.prevv = true ∧
      ∃ t, exec .bnext atSecond = .next t ∧ t.eng.bcount ≠ atSecond.eng.bcount) ∧
    ((openAt blkD).eng.Inv ∧ (openAt blkD).eng.prevv = false ∧
      ∃ t, exec .bnext (openAt blkD) = .next t ∧ t.eng.bcount ≠ (openAt blkD).eng.bcount) ∧
    (openAt []).eng.Inv ∧ ∃ t, exec .bnext (openAt []) = .next t ∧ t.eng.bend = true :=
  ⟨⟨atSecond_inv, by decide, _, rfl, by decide +kernel⟩,
    ⟨openAt_inv _ (by decide), by decide, _, rfl, by decide +kernel⟩, openAt_inv _ (by decide), _, rfl,
    by decide +kernel⟩

theorem witness_BlockNumbersNeverRepeat :
    (∃ t, exec .bnext atSecond = .next t ∧ atSecond.eng.prevv = true ∧ t.eng.bcount ≠ atSecond.eng.bcount) ∧
    (∃ t, exec .bnext (pass (List.replicate 74 0) (streamingAfter 0xFFFF 66)) = .next t ∧
      (streamingAfter 0xFFFF 66).prevv = true ∧ (streamingAfter 0xFFFF 66).prevNum = 0xFFFF#16) ∧
    nonceOf 0xFFFF = nonceOf 0xFFFF :=
  ⟨⟨_, rfl, by decide, by decide +kernel⟩, ⟨_, rfl, by decide, by decide⟩, rfl⟩

/-- The stream walked to its end, and not begun. -/
theorem witness_StreamIsRestartable :
    let s := pass (List.replicate 58 0) (afterEnc 0)
    walked.withoutStream = s.eng.withoutStream ∧ walked ≠ s.eng ∧ s.eng.run = true ∧ s.eng.errf = false ∧
      s.eng.encv = true ∧ 58 + s.eng.encH.ehsz.toNat ≤ s.eng.flen := by
  decide +kernel

/-- At the end of FILE one `BNEXT` is enough; with 8 bytes left, two. -/
theorem witness_StreamIsFinite :
    (atEnd.eng.run = true ∧ atEnd.eng.errf = false ∧ atEnd.eng.bact = true ∧ atEnd.eng.bend = false ∧
      (atEnd.eng.flen - atEnd.eng.cur) / 8 + 1 ≤ 1) ∧
    atSecond.eng.run = true ∧ atSecond.eng.errf = false ∧ atSecond.eng.bact = true ∧ atSecond.eng.bend = false ∧
      (atSecond.eng.flen - atSecond.eng.cur) / 8 + 1 ≤ 2 := by
  decide +kernel

theorem witness_ErrorEntryIsPrecise :
    ∃ t, exec .pmain (pass [] Engine.reset) = .next t ∧ t.eng.errf = true ∧ (pass [] Engine.reset).eng.errf = false ∧
      t.eng.err ≠ (pass [] Engine.reset).eng.err :=
  ⟨_, rfl, by decide, by decide, by decide⟩

/-- One that raises and one that does not. -/
theorem witness_ErrorTableIsExact :
    ((pass [] Engine.reset).eng.Inv ∧ precondition .pmain (pass [] Engine.reset).eng = true ∧ (Instr.pmain ≠ .start ∧ Instr.pmain ≠ .endPass) ∧
      (∃ t, exec .pmain (pass [] Engine.reset) = .next t) ∧
      firstError (errorRows .pmain (pass [] Engine.reset).env (pass [] Engine.reset).eng) =
        some ⟨1, 1, 0, 12, 0⟩) ∧
    (pass mainA Engine.reset).eng.Inv ∧ precondition .pmain (pass mainA Engine.reset).eng = true ∧
      (∃ t, exec .pmain (pass mainA Engine.reset) = .next t) ∧
      firstError (errorRows .pmain (pass mainA Engine.reset).env (pass mainA Engine.reset).eng) = none :=
  ⟨⟨begun_inv _ (by decide), by decide, by decide, ⟨_, rfl⟩, by decide +kernel⟩, begun_inv _ (by decide), by decide,
    ⟨_, rfl⟩, by decide +kernel⟩

theorem witness_ErrorsAreTerminal :
    ((pass mainA { Engine.reset with errf := true }).eng.errf = true ∧ isDecodeCommand .pmain = true) ∧
    ∃ t, step (withMove (pass mainA { Engine.reset with errf := true }) (.write 0 0x20)) = .next t :=
  ⟨by decide, ⟨_, rfl⟩⟩

/-- Each of the four, with the effect and, for `CSRNG`, refused. -/
theorem witness_FrameOfTheChecksumCommands :
    (∃ t, exec .nop State.reset = .next t) ∧ (∃ t, exec .csclr State.reset = .next t) ∧
      (∃ t, exec (.cspush 0xFF) State.reset = .next t ∧ t.eng.acc8 ≠ State.reset.eng.acc8) ∧
      (∃ t, exec .csrng State.reset = .next t ∧ t.eng.ill ≠ State.reset.eng.ill) ∧
      ∃ t, exec .csrng (pass mainA { Engine.reset with arg1 := 12 }) = .next t ∧ t.eng.acc8 ≠ 0 :=
  ⟨⟨_, rfl⟩, ⟨_, rfl⟩, ⟨_, rfl, by decide⟩, ⟨_, rfl, by decide⟩, ⟨_, rfl, by decide +kernel⟩⟩

/-- Each parser, with its effect. -/
theorem witness_FrameOfTheParsers :
    (∃ t, exec .pmain (pass mainA Engine.reset) = .next t ∧ t.eng.mainv = true) ∧
    (∃ t, exec .penc (pass (mainA ++ enc 0 0x81) afterMain) = .next t ∧ t.eng.encv = true) ∧
    (∃ t, exec .eopen (atOpen32 0) = .next t ∧ t.eng.openv = true) ∧
    (∃ t, exec .pmeta (pass [] (afterOpen [1, 0, 0, 0])) = .next t ∧ t.eng.metav = true) ∧
    ∃ t, exec .pdata (pass [] (afterMeta (List.replicate 16 0) 0)) = .next t ∧ t.eng.datav = true :=
  ⟨⟨_, rfl, by decide +kernel⟩, ⟨_, rfl, by decide +kernel⟩, ⟨_, rfl, by decide +kernel⟩, ⟨_, rfl, by decide +kernel⟩,
    ⟨_, rfl, by decide +kernel⟩⟩

theorem witness_FrameOfTheStreamCommands :
    (∃ t, exec .binit (pass (List.replicate 58 0) (afterEnc 0)) = .next t ∧ t.eng.bact = true) ∧
    ∃ t, exec .bnext (openAt blkD) = .next t ∧ t.eng.blkv = true :=
  ⟨⟨_, rfl, by decide +kernel⟩, ⟨_, rfl, by decide +kernel⟩⟩

theorem witness_LaunchInputsAreSampledByStartOnly :
    (Instr.endPass ≠ .start ∧ ∃ t, exec .endPass State.reset = .next t) ∧
    State.reset.env.keyPresent = false ∧ ∃ t, exec .start State.reset = .next t :=
  ⟨⟨by decide, ⟨_, rfl⟩⟩, by decide, ⟨_, rfl⟩⟩

/-- The lowest bit that is always 0. -/
theorem witness_StatusBitsAreTheFlags : 12 ≤ 12 ∧ (pass [] Engine.reset).eng.status.getLsbD 0 = true := by decide

/-- Each kind of move, with the largest value that fits 18 bits (17 for `FLEN_IN`), and the ends of the register ranges. -/
theorem witness_HostAccessRule :
    ((withMove State.reset (.write 2 0x3FFFF)).host = .write 2 0x3FFFF :: [] ∧ 0x3FFFF < 2 ^ (Config.aw + 1)) ∧
    ((withMove State.reset (.write 3 0)).host = .write 3 0 :: [] ∧ 0 < 2 ^ (Config.aw + 1)) ∧
    ((withMove State.reset (.write 1 7)).host = .write 1 7 :: [] ∧ 1 ≠ 0 ∧ 1 ≠ 2 ∧ 1 ≠ 3) ∧
    (withMove State.reset (.read 64 5)).host = .read 64 5 :: [] ∧
    ((withMove State.reset (.drive 0x1FFFF true (Vector.replicate 32 1))).host =
        .drive 0x1FFFF true (Vector.replicate 32 1) :: [] ∧ 0x1FFFF < 2 ^ Config.aw) ∧
    ((withMove State.reset (.place mainA)).host = .place mainA :: [] ∧ State.reset.eng.run = false ∧
      11 < mainA.length) ∧
    ((49 ≤ 49 ∧ 49 ≤ 63) ∧ (49 ≤ 63 ∧ 63 ≤ 63) ∧ 64 < 65) ∧
    2 < (afterOpen [1, 2, 3]).pihlen.toNat ∧ (afterOpen [1, 2, 3]).pihlen.toNat ≤ 3 :=
  ⟨⟨rfl, lt_two_pow_aw 1 (by decide)⟩, ⟨rfl, lt_two_pow_aw 1 (by decide)⟩, by decide, rfl,
    ⟨rfl, small_fits (by decide)⟩, ⟨rfl, by decide, by decide⟩, by decide, by decide, by decide⟩

/-- Two registers of the host's table, and a byte of a placed file (R29, R12). -/
theorem test_host_reads_and_place :
    hostRead afterMain 12 0 = .num 0x19345601 ∧ hostRead (streamingAfter 5 66) 33 0 = .num 5 ∧
      ∃ t, step (withMove State.reset (.place mainA)) = .next t ∧ t.env.fileLen = 12 ∧ t.env.file.read 11 = 0x90 :=
  ⟨by decide, by decide, _, rfl, by decide, by decide⟩

/-- Two engines that differ in `KEY`. -/
theorem witness_SecretsAreNotObservable :
    let e := { afterMain with key := Vector.replicate 32 1 }
    e.withoutSecrets = afterMain.withoutSecrets ∧ e ≠ afterMain ∧ Instr.penc ≠ .eopen ∧
      ∃ t, exec .penc (pass (mainA ++ enc 0 0x81) e) = .next t :=
  ⟨by decide +kernel, by decide +kernel, by decide, ⟨_, rfl⟩⟩

/-- `START` without a key; `BNEXT`; an `EOPEN` that is refused; the reset input; a step that changes `KEY` (`END`, with a
key) and one that changes `KEYMAT` (`EOPEN`). -/
theorem witness_SecretsLastForThePass :
    let keyed := pass [] { Engine.reset with key := Vector.replicate 32 1 }
    State.reset.env.keyPresent = false ∧
    (∃ t, exec .bnext (openAt blkD) = .next t ∧ Instr.bnext ≠ .start ∧ Instr.bnext ≠ .endPass ∧ Instr.bnext ≠ .eopen) ∧
    (∃ t, exec .eopen (pass [] (afterOpen [1])) = .next t ∧ (afterOpen [1]).openv = true) ∧
    (withMove keyed .reset).host = .reset :: [] ∧
    (∃ t, step (withMove keyed (.write 0 2)) = .next t ∧ t.eng.key ≠ keyed.eng.key) ∧
    ∃ t, step (withMove (atOpen32 0) (.write 0 0x22)) = .next t ∧ t.eng.keymat ≠ (atOpen32 0).eng.keymat :=
  ⟨by decide, ⟨_, rfl, by decide, by decide, by decide⟩, ⟨_, rfl, by decide⟩, rfl, ⟨_, rfl, by decide +kernel⟩,
    ⟨_, rfl, by decide +kernel⟩⟩

/-- Each flag without the next: opened, no block yet; data parsed, no block yet; a block, nothing opened. -/
theorem witness_TransformSideOutputs :
    ((afterOpen [1]).openv = true ∧ (afterOpen [1]).blkv = false) ∧
    (walkedKeyed.datav = true ∧ walkedKeyed.blkv = false) ∧
    (streamingAfter 0xFFFF 66).blkv = true ∧ (streamingAfter 0xFFFF 66).openv = false := by decide

theorem witness_TransformDecryptsThenDecompresses : (afterMain.transformOut).flags = 0 := by decide

/-- `BNEXT` in a state of the invariant, with blocks to come. -/
theorem witness_EveryStepKeepsTheInvariant :
    (withMove (openAt blkD) (.write 0 0x31)).Inv ∧
      ∃ t, step (withMove (openAt blkD) (.write 0 0x31)) = .next t ∧ t.eng.blkv = true :=
  ⟨⟨openAt_inv _ (by decide), pass_env _ (by decide) (streaming 58), Nat.le_refl _⟩, _, rfl, by decide +kernel⟩

/-- Without a key and with one. -/
theorem witness_PassOkMeansWalkedToTheEnd :
    (walked.Inv ∧ walked.passOk = true) ∧ walkedKeyed.Inv ∧ walkedKeyed.passOk = true ∧ walkedKeyed.keyv = true :=
  ⟨⟨walked_inv, by decide⟩, walkedKeyed_inv, by decide, by decide⟩

/-- Each stop, with the smallest value that is too wide. -/
theorem witness_HostMisuseStopsTheModel :
    ((withMove (pass [] Engine.reset) (.place [1])).host = .place [1] :: [] ∧ (pass [] Engine.reset).eng.run = true) ∧
    ((withMove { State.reset with env := { Env.none with flenIn := 1 } } (.write 0 1)).host = .write 0 0x0001 :: [] ∧
      ({ Env.none with flenIn := 1 } : Env).fileLen < ({ Env.none with flenIn := 1 } : Env).flenIn) ∧
    ((withMove State.reset (.write 0 65536)).host = .write 0 65536 :: [] ∧ 2 ^ 16 ≤ 65536) ∧
    ((withMove State.reset (.write 2 (2 ^ (Config.aw + 1)))).host = .write 2 (2 ^ (Config.aw + 1)) :: [] ∧
      (withMove State.reset (.write 3 (2 ^ (Config.aw + 1)))).host = .write 3 (2 ^ (Config.aw + 1)) :: [] ∧
      2 ^ (Config.aw + 1) ≤ 2 ^ (Config.aw + 1)) ∧
    (withMove State.reset (.drive (2 ^ Config.aw) false (Vector.replicate 32 0))).host =
        .drive (2 ^ Config.aw) false (Vector.replicate 32 0) :: [] ∧
      2 ^ Config.aw ≤ 2 ^ Config.aw :=
  ⟨by decide, by decide, ⟨rfl, Nat.le_refl _⟩, ⟨rfl, rfl, Nat.le_refl _⟩, rfl, Nat.le_refl _⟩

end Sys2Proof.Tests
end

section
/-! Every step of the machine keeps the invariant `State.Inv`. The parts, in order: the widths of R1; the writes that touch
no flag but `ILL`, and the engines that reset and `START` leave; the error entry; for each decode command what its verdict guarantees, and that its writes keep the invariant
under that guarantee; then the step, case by case of `StepCase`. -/

namespace Sys2Proof.Machine

/-! ### Widths (R1, R27) -/

/-- An offset of `AW` bits fits a register of `AW + 1` bits. -/
theorem offset_fits_wide {v : Nat} (h : v < 2 ^ Config.aw) : v < 2 ^ (Config.aw + 1) :=
  h.trans_le (Nat.pow_le_pow_right (by omega) (by omega))

/-- An offset of `AW` bits fits `ERR_ACT`. -/
theorem offset_fits_act {v : Nat} (h : v < 2 ^ Config.aw) : v < 2 ^ max 32 Config.aw :=
  h.trans_le (Nat.pow_le_pow_right (by omega) (by omega))

/-- A field of 32 bits fits `ERR_ACT`. -/
theorem word_fits_act {v : Nat} (h : v < 2 ^ 32) : v < 2 ^ max 32 Config.aw :=
  h.trans_le (Nat.pow_le_pow_right (by omega) (by omega))

/-- A number below `2^17` fits an offset register of `AW + 1` bits. -/
theorem below17_fits_wide {v : Nat} (h : v < 2 ^ 17) : v < 2 ^ (Config.aw + 1) :=
  offset_fits_wide (lt_two_pow_aw 0 h)

/-! ### Refusals, operands and accumulators; reset and `START` -/

/-- During a pass the invariant asks nothing of the idle engine. -/
theorem idleIsReset_of_run {e : Engine} (h : e.run = true) : e.IdleIsReset :=
  fun hr => absurd hr (by simp [h])

/-- The registers an idle engine may hold at any value, `ILL`, `ARG0`, `ARG1`, `ACC8` and `ACC16`, carry no invariant but the
width of the operands. -/
theorem inv_of_operand_writes {e : Engine} (h : e.Inv) (ill : Bool) {arg0 arg1 : Nat} (acc8 : Byte) (acc16 : Half)
    (h0 : arg0 < 2 ^ (Config.aw + 1)) (h1 : arg1 < 2 ^ (Config.aw + 1)) :
    Engine.Inv { e with ill := ill, arg0 := arg0, arg1 := arg1, acc8 := acc8, acc16 := acc16 } where
  fits := { h.fits with arg0 := h0, arg1 := h1 }
  idle := fun hr =>
    congrArg (fun x : Engine => { x with ill := ill, arg0 := arg0, arg1 := arg1, acc8 := acc8, acc16 := acc16 })
      (h.idle hr)
  stages := { h.stages with }
  stream := { h.stream with }
  errors := { h.errors with }
  pihWf := h.pihWf
  pihBelow := h.pihBelow

theorem refuse_inv {e : Engine} (h : e.Inv) : (refuse e).Inv :=
  inv_of_operand_writes h true e.acc8 e.acc16 h.fits.arg0 h.fits.arg1

theorem absorb_inv {e : Engine} (h : e.Inv) (s : List Byte) : (absorb s e).Inv :=
  inv_of_operand_writes h e.ill (fold8 e.acc8 s) (fold16 e.acc16 s) h.fits.arg0 h.fits.arg1

/-- The reset engine meets the invariant (R135, R136). -/
theorem engineReset_inv : Engine.reset.Inv where
  fits := by constructor <;> exact Nat.two_pow_pos _
  idle := fun _ => rfl
  stages := by constructor <;> simp [Engine.reset]
  stream := by constructor <;> simp [Engine.reset]
  errors := by constructor <;> simp [Engine.reset]
  pihWf := empty_wf
  pihBelow := fun _ hc => nomatch hc

/-- A pass begins in the reset engine but for `RUN`, `FLEN` and the key, which is zero without `KEY_PRESENT` (R60). -/
theorem startEffect_inv {env : Env} (henv : env.Inv) (e : Engine) : (startEffect env e).Inv where
  fits := { engineReset_inv.fits with flen := henv.flenIn }
  idle := idleIsReset_of_run rfl
  stages := { engineReset_inv.stages with
    noKey := fun hk => if_neg (Bool.eq_false_iff.1 hk)
    main := nofun, enc := nofun, opened := nofun }
  stream := { engineReset_inv.stream with ended := nofun, inFile := Nat.zero_le _ }
  errors := { engineReset_inv.errors with error := nofun }
  pihWf := empty_wf
  pihBelow := engineReset_inv.pihBelow

/-! ### The error entry and the settled verdict -/

/-- Every structure an error names has a code other than 0 (R119). -/
theorem structCode_ne_zero (st : ErrStruct) : st.code ≠ 0#3 := by cases st <;> decide

/-- The codes of the kinds the engine raises: all but that of the collaborator's error (R118, U12). -/
theorem kindCode_legal {k : ErrKind} (hk : k ≠ .decompressionFailed) :
    k.code ∈ [1#3, 2#3, 3#3, 4#3, 6#3] := by
  cases k with
  | decompressionFailed => exact absurd rfl hk
  | truncatedInput | badMagic | checksumMismatch | decryptionFailed | sequenceMismatch => decide

/-- The error entry keeps the invariant during a pass, for a kind the engine may raise and values that fit the error
registers (R117, U12). -/
theorem raise_inv {e : Engine} (h : e.Inv) (hrun : e.run = true) {k : ErrKind} (st : ErrStruct) {off act : Nat} (exp : Nat)
    (hk : k ≠ .decompressionFailed) (hoff : off < 2 ^ (Config.aw + 1)) (hact : act < 2 ^ max 32 Config.aw) :
    (raise k st off exp act e).Inv where
  fits := { h.fits with errOff := hoff, errAct := hact }
  idle := idleIsReset_of_run hrun
  stages := { h.stages with }
  stream := { h.stream with
    opened := nofun
    beginning := nofun
    ended := fun hb => have ⟨henc, _, hcur⟩ := h.stream.ended hb; ⟨henc, rfl, hcur⟩
    yielded := nofun }
  errors :=
    { noError := nofun
      error := fun _ => ⟨hrun, rfl, rfl, structCode_ne_zero st, kindCode_legal hk⟩ }
  pihWf := h.pihWf
  pihBelow := h.pihBelow

/-- What a verdict guarantees: an error it raises is of a legal kind and fits the error registers (R27, U12), and a value it
passes with meets `ok`. -/
def Verdict.Meets {α : Type} (ok : α → Prop) : Verdict α → Prop
  | .fails kind _ off _ act =>
    kind ≠ .decompressionFailed ∧ off < 2 ^ (Config.aw + 1) ∧ act < 2 ^ max 32 Config.aw
  | .passes a => ok a

/-- A settled verdict keeps the invariant when the command's writes do under what the verdict guarantees. -/
theorem settle_inv {α : Type} {v : Verdict α} {ok : α → Prop} {writes : α → Engine → Engine} {e : Engine}
    (h : e.Inv) (hrun : e.run = true) (hv : v.Meets ok) (hw : ∀ a, ok a → (writes a e).Inv) :
    (v.settle writes e).Inv := by
  cases v with
  | fails k st off exp act =>
    obtain ⟨hk, hoff, hact⟩ := hv
    exact raise_inv h hrun st exp hk hoff hact
  | passes a => exact hw a hv

/-! ### What each verdict guarantees -/

/-- `PMAIN` passes with the magic right and 12 bytes of FILE (R75). -/
theorem pmainVerdict_meets {flen : Nat} (file : Memory) (hf : flen < 2 ^ Config.aw) :
    (pmainVerdict flen file).Meets fun h => h.magic = Config.magic ∧ 12 ≤ flen := by
  unfold pmainVerdict
  split_ifs with hlen hmagic hcs
  · exact ⟨nofun, below17_fits_wide (by decide), offset_fits_act hf⟩
  · exact ⟨nofun, below17_fits_wide (by decide), word_fits_act (BitVec.isLt _)⟩
  · exact ⟨nofun, below17_fits_wide (by decide), word_fits_act (by omega)⟩
  · exact ⟨by rw [parseMain_bytes]; exact not_not.1 hmagic, not_lt.1 hlen⟩

/-- `PENC` passes with 42 bytes of FILE (R80). -/
theorem pencVerdict_meets {flen : Nat} (file : Memory) (hf : flen < 2 ^ Config.aw) :
    (pencVerdict flen file).Meets fun _ => 42 ≤ flen := by
  unfold pencVerdict
  split_ifs with hlen hcs
  · exact ⟨nofun, below17_fits_wide (by decide), offset_fits_act (by omega)⟩
  · exact ⟨nofun, below17_fits_wide (by decide), word_fits_act (by omega)⟩
  · show 42 ≤ flen
    omega

/-- `EOPEN` passes with the whole blob in FILE and a plaintext as long as the ciphertext that holds the key material
(R88). -/
theorem eopenVerdict_meets {flen ehs : Nat} (tag : Vector Byte 16) (reply : AeadReply) (hf : flen < 2 ^ Config.aw)
    (he : ehs < 2 ^ 16) :
    (eopenVerdict flen ehs tag reply).Meets fun opened =>
      58 + ehs ≤ flen ∧ opened.2.length = ehs ∧ 32 ≤ ehs := by
  unfold eopenVerdict
  split
  next => exact ⟨nofun, below17_fits_wide (by decide), offset_fits_act (by omega)⟩
  next hblob =>
    cases reply with
    | authFailure => exact ⟨nofun, below17_fits_wide (by decide), word_fits_act (by decide)⟩
    | plaintext p =>
      dsimp only
      split_ifs with hlen hshort
      · exact ⟨nofun, below17_fits_wide (by decide), word_fits_act (Nat.mod_lt _ (by decide))⟩
      · exact ⟨nofun, below17_fits_wide (by decide), word_fits_act (by omega)⟩
      · exact ⟨by omega, not_not.1 hlen, not_lt.1 hshort⟩

/-- `PMETA` passes with the fixed part and the payload inside PIH (R94). -/
theorem pmetaVerdict_meets (len : Nat) (pih : Memory) :
    (pmetaVerdict len pih).Meets fun h => 4 + h.paysz.toNat ≤ len := by
  unfold pmetaVerdict
  split_ifs with hfixed hpay
  · exact ⟨nofun, below17_fits_wide (by decide), word_fits_act (by omega)⟩
  · exact ⟨nofun, below17_fits_wide (by decide), word_fits_act (by omega)⟩
  · show 4 + _ ≤ len
    omega

/-- `PDATA` passes with the DataHeader inside PIH (R95). -/
theorem pdataVerdict_meets {len o : Nat} (pih : Memory) (ho : o < 2 ^ 17) :
    (pdataVerdict len o pih).Meets fun _ => o + 12 ≤ len := by
  unfold pdataVerdict
  split_ifs with hlen
  · exact ⟨nofun, below17_fits_wide ho, word_fits_act (by omega)⟩
  · show o + 12 ≤ len
    omega

/-- `BINIT` passes with the beginning of the stream, which FILE reaches (R101). -/
theorem binitVerdict_meets {flen : Nat} (ehs : Nat) (hf : flen < 2 ^ Config.aw) :
    (binitVerdict flen ehs).Meets fun start => start = 58 + ehs ∧ 58 + ehs ≤ flen := by
  unfold binitVerdict
  split_ifs with hlen
  · exact ⟨nofun, below17_fits_wide (by decide), offset_fits_act (by omega)⟩
  · exact ⟨rfl, not_lt.1 hlen⟩

/-- `BNEXT` passes with no block when the cursor is at the end of FILE, or with a block that ends inside FILE (R102). -/
theorem bnextVerdict_meets {flen cur : Nat} (prevv : Bool) (prevNum : Half) (file : Memory) (hf : flen < 2 ^ Config.aw)
    (hc : cur ≤ flen) :
    (bnextVerdict flen cur prevv prevNum file).Meets fun found =>
      match found with
      | none => cur = flen
      | some h => cur + 8 + h.paysz.toNat ≤ flen := by
  unfold bnextVerdict
  dsimp only
  split_ifs with hend hlen hcs hpay hseq
  · show cur = flen
    omega
  · exact ⟨nofun, offset_fits_wide (by omega), offset_fits_act (by omega)⟩
  · exact ⟨nofun, offset_fits_wide (by omega), word_fits_act (by omega)⟩
  · exact ⟨nofun, offset_fits_wide (by omega), offset_fits_act (by omega)⟩
  · exact ⟨nofun, offset_fits_wide (by omega), word_fits_act (by omega)⟩
  · show cur + 8 + _ ≤ flen
    omega

/-! ### The decode commands -/

variable {e : Engine}

/-- `PMAIN` keeps the invariant (R75). -/
theorem pmainEffect_inv (env : Env) (h : e.Inv) (hp : precondition .pmain e = true) : (pmainEffect env e).Inv := by
  obtain ⟨⟨hrun, -⟩, -⟩ : (e.run = true ∧ e.errf = false) ∧ e.mainv = false := by simpa [precondition] using hp
  rw [pmainEffect_eq]
  refine settle_inv h hrun (pmainVerdict_meets env.file h.fits.flen) fun m ⟨hmagic, hlen⟩ => ?_
  exact
    { fits := { h.fits with }
      idle := idleIsReset_of_run hrun
      stages := { h.stages with
        noMain := nofun
        main := fun _ => ⟨hmagic, hlen⟩
        enc := fun he => ⟨rfl, (h.stages.enc he).2⟩ }
      stream := { h.stream with }
      errors := { h.errors with }
      pihWf := h.pihWf
      pihBelow := h.pihBelow }

/-- Before `PENC` nothing that depends on `ENC_EHSZ` has begun: no envelope is open, the stream neither runs nor has ended,
and no block was yielded. -/
theorem flags_clear_of_not_encv (h : e.Inv) (he : e.encv = false) :
    e.openv = false ∧ e.bact = false ∧ e.bend = false ∧ e.prevv = false := by
  refine ⟨?_, ?_, ?_, ?_⟩ <;> refine Bool.eq_false_iff.2 fun hf => Bool.eq_false_iff.1 he ?_
  · exact (h.stages.opened hf).1
  · exact (h.stream.opened hf).1
  · exact (h.stream.ended hf).1
  · exact (h.stream.later hf).1

/-- `PENC` keeps the invariant: it changes `ENC_EHSZ` before anything depends on it (R80). -/
theorem pencEffect_inv (env : Env) (h : e.Inv) (hp : precondition .penc e = true) : (pencEffect env e).Inv := by
  obtain ⟨⟨⟨hrun, -⟩, hmain⟩, henc⟩ : ((e.run = true ∧ e.errf = false) ∧ e.mainv = true) ∧ e.encv = false := by
    simpa [precondition] using hp
  obtain ⟨hopen, hbact, hbend, hprev⟩ := flags_clear_of_not_encv h henc
  rw [pencEffect_eq]
  refine settle_inv h hrun (pencVerdict_meets env.file h.fits.flen) fun m hlen => ?_
  exact
    { fits := { h.fits with }
      idle := idleIsReset_of_run hrun
      stages := { h.stages with
        noEnc := nofun
        enc := fun _ => ⟨hmain, hlen⟩
        opened := fun ho => absurd (hopen.symm.trans ho) nofun }
      stream := { h.stream with
        opened := fun hb => absurd (hbact.symm.trans hb) nofun
        beginning := fun hb => absurd (hbact.symm.trans hb) nofun
        ended := fun hb => absurd (hbend.symm.trans hb) nofun
        later := fun hv => absurd (hprev.symm.trans hv) nofun }
      errors := { h.errors with }
      pihWf := h.pihWf
      pihBelow := h.pihBelow }

/-- Before `PMETA` no DataHeader was parsed (R95). -/
theorem datav_false_of_metav_false (h : e.Inv) (hm : e.metav = false) : e.datav = false :=
  Bool.eq_false_iff.2 fun hd => Bool.eq_false_iff.1 hm (h.stages.data hd).1

/-- `EOPEN` keeps the invariant: PIH holds the plaintext after the key material, and `PIHLEN` is its length (R18, R88). -/
theorem eopenEffect_inv (env : Env) (h : e.Inv) (hp : precondition .eopen e = true) : (eopenEffect env e).Inv := by
  obtain ⟨⟨⟨⟨hrun, -⟩, henc⟩, hkey⟩, hopen⟩ :
      (((e.run = true ∧ e.errf = false) ∧ e.encv = true) ∧ e.keyv = true) ∧ e.openv = false := by
    simpa [precondition] using hp
  have hmeta : e.metav = false :=
    Bool.eq_false_iff.2 fun hm => Bool.eq_false_iff.1 hopen (h.stages.metaHdr hm).1
  have hdata := datav_false_of_metav_false h hmeta
  have hehs : e.ehs < 2 ^ 16 := e.encH.ehsz.isLt
  rw [eopenEffect_eq]
  refine settle_inv h hrun (eopenVerdict_meets _ _ h.fits.flen hehs) fun opened ⟨hblob, hlen, hshort⟩ => ?_
  have hpih : (BitVec.ofNat 16 (e.ehs - 32)).toNat = e.ehs - 32 := by
    rw [BitVec.toNat_ofNat]; exact Nat.mod_eq_of_lt (by omega)
  have hslice : (slice opened.2 32 e.ehs).length = e.ehs - 32 := by simp [slice, hlen]
  exact
    { fits := { h.fits with }
      idle := idleIsReset_of_run hrun
      stages := { h.stages with
        noOpen := nofun
        opened := fun _ => ⟨henc, hkey, hblob, by rw [hpih]; exact Nat.sub_add_cancel hshort⟩
        metaHdr := fun hm => absurd (hmeta.symm.trans hm) nofun
        data := fun hd => absurd (hdata.symm.trans hd) nofun }
      stream := { h.stream with }
      errors := { h.errors with }
      pihWf := ofBytes_wf _ 0
      pihBelow := by
        rw [hpih, ← hslice]
        simpa using ofBytes_below (slice opened.2 32 e.ehs) 0 }

/-- `PMETA` keeps the invariant: it changes `META_PAYSZ` before a DataHeader was parsed behind it (R94). -/
theorem pmetaEffect_inv (env : Env) (h : e.Inv) (hp : precondition .pmeta e = true) : (pmetaEffect env e).Inv := by
  obtain ⟨⟨⟨hrun, -⟩, hopen⟩, hmeta⟩ : ((e.run = true ∧ e.errf = false) ∧ e.openv = true) ∧ e.metav = false := by
    simpa [precondition] using hp
  have hdata := datav_false_of_metav_false h hmeta
  rw [pmetaEffect_eq]
  refine settle_inv h hrun (pmetaVerdict_meets e.pihlen.toNat e.pih) fun m hpay => ?_
  exact
    { fits := { h.fits with }
      idle := idleIsReset_of_run hrun
      stages := { h.stages with
        noMeta := nofun
        metaHdr := fun _ => ⟨hopen, hpay⟩
        data := fun hd => absurd (hdata.symm.trans hd) nofun }
      stream := { h.stream with }
      errors := { h.errors with }
      pihWf := h.pihWf
      pihBelow := h.pihBelow }

/-- `PDATA` keeps the invariant (R95). -/
theorem pdataEffect_inv (env : Env) (h : e.Inv) (hp : precondition .pdata e = true) : (pdataEffect env e).Inv := by
  obtain ⟨⟨⟨hrun, -⟩, hmeta⟩, -⟩ : ((e.run = true ∧ e.errf = false) ∧ e.metav = true) ∧ e.datav = false := by
    simpa [precondition] using hp
  have ho : 4 + e.metaH.paysz.toNat < 2 ^ 17 := by omega
  rw [pdataEffect_eq]
  refine settle_inv h hrun (pdataVerdict_meets e.pih ho) fun d hlen => ?_
  exact
    { fits := { h.fits with }
      idle := idleIsReset_of_run hrun
      stages := { h.stages with
        noData := nofun
        data := fun _ => ⟨hmeta, by show 16 + e.metaH.paysz.toNat ≤ e.pihlen.toNat; omega⟩ }
      stream := { h.stream with }
      errors := { h.errors with }
      pihWf := h.pihWf
      pihBelow := h.pihBelow }

/-- `BINIT` keeps the invariant: the stream begins inside FILE, with no block yielded and no error recorded (R101). -/
theorem binitEffect_inv (env : Env) (h : e.Inv) (hp : precondition .binit e = true) : (binitEffect env e).Inv := by
  obtain ⟨⟨hrun, herr⟩, henc⟩ : (e.run = true ∧ e.errf = false) ∧ e.encv = true := by
    simpa [precondition] using hp
  rw [binitEffect_eq]
  refine settle_inv h hrun (binitVerdict_meets e.ehs h.fits.flen) ?_
  rintro _ ⟨rfl, hlen⟩
  exact
    { fits := { h.fits with
        bcount := Nat.two_pow_pos _
        cur := offset_fits_wide (hlen.trans_lt h.fits.flen)
        blkOff := Nat.two_pow_pos _ }
      idle := idleIsReset_of_run hrun
      stages := { h.stages with }
      stream :=
        { opened := fun _ => ⟨henc, rfl, le_rfl⟩
          beginning := fun _ _ => rfl
          ended := nofun
          inFile := hlen
          yielded := nofun
          first := fun _ => ⟨rfl, rfl, rfl, rfl⟩
          later := nofun }
      errors := { h.errors with error := fun he => absurd (herr.symm.trans he) nofun }
      pihWf := h.pihWf
      pihBelow := h.pihBelow }

/-- With the stream open, the cursor is past the beginning by at least 8 bytes for each block yielded (R49, R105). -/
theorem cur_ge_of_bact (h : e.Inv) (hb : e.bact = true) : 58 + e.ehs + 8 * e.bcount ≤ e.cur := by
  cases hv : e.prevv with
  | false =>
    obtain ⟨-, hcount, -⟩ := h.stream.first hv
    rw [hcount, h.stream.beginning hb hv]
    omega
  | true =>
    obtain ⟨-, -, -, -, hcur⟩ := h.stream.later hv
    exact hcur

/-- The clean end keeps the invariant: the cursor is at the end of FILE (R102, R105). -/
theorem cleanEnd_inv (h : e.Inv) (hrun : e.run = true) (herr : e.errf = false) (hb : e.bact = true)
    (hcur : e.cur = e.flen) : Engine.Inv { e with bact := false, bend := true, blkv := false } where
  fits := { h.fits with }
  idle := idleIsReset_of_run hrun
  stages := { h.stages with }
  stream := { h.stream with
    opened := nofun
    beginning := nofun
    ended := fun _ => have ⟨henc, _, hge⟩ := h.stream.opened hb; ⟨henc, rfl, hcur, hge⟩
    yielded := nofun }
  errors := { h.errors with error := fun he => absurd (herr.symm.trans he) nofun }
  pihWf := h.pihWf
  pihBelow := h.pihBelow

/-- A yielded block keeps the invariant: it ends inside FILE, 8 bytes or more further on, so the count stays below FLEN
(R102, R105). -/
theorem yieldBlock_inv (h : e.Inv) (hrun : e.run = true) (herr : e.errf = false) (hb : e.bact = true) {b : BlockHeader}
    (hend : e.cur + 8 + b.paysz.toNat ≤ e.flen) : (yieldBlock b e).Inv := by
  have hcount := cur_ge_of_bact h hb
  have hflen := h.fits.flen
  obtain ⟨henc, hnend, -⟩ := h.stream.opened hb
  exact
    { fits := { h.fits with
        bcount := by rw [yieldBlock_bcount]; omega
        cur := offset_fits_wide (by rw [yieldBlock_cur, blkhdrSize_eq]; omega)
        blkOff := h.fits.cur }
      idle := idleIsReset_of_run hrun
      stages := { h.stages with }
      stream :=
        { opened := fun _ => ⟨henc, hnend, by
            rw [yieldBlock_cur, blkhdrSize_eq]
            show 58 + e.ehs ≤ _
            omega⟩
          beginning := nofun
          ended := fun hb' => absurd (hnend.symm.trans hb') nofun
          inFile := by rw [yieldBlock_cur, blkhdrSize_eq]; exact hend
          yielded := fun _ => ⟨hb, rfl⟩
          first := nofun
          later := fun _ => ⟨henc, Nat.succ_pos _, rfl, by simp, by
            rw [yieldBlock_cur, blkhdrSize_eq, yieldBlock_bcount]
            show 58 + e.ehs + _ ≤ _
            omega⟩ }
      errors := { h.errors with error := fun he => absurd (herr.symm.trans he) nofun }
      pihWf := h.pihWf
      pihBelow := h.pihBelow }

/-- `BNEXT` keeps the invariant (R102). -/
theorem bnextEffect_inv (env : Env) (h : e.Inv) (hp : precondition .bnext e = true) : (bnextEffect env e).Inv := by
  obtain ⟨⟨hrun, herr⟩, hb⟩ : (e.run = true ∧ e.errf = false) ∧ e.bact = true := by
    simpa [precondition] using hp
  rw [bnextEffect_eq]
  refine settle_inv h hrun (bnextVerdict_meets _ _ env.file h.fits.flen h.stream.inFile) fun found hfound => ?_
  cases found with
  | none => exact cleanEnd_inv h hrun herr hb hfound
  | some b => exact yieldBlock_inv h hrun herr hb hfound

/-! ### The step -/

/-- Every command whose precondition holds keeps the invariant of the engine (R59). -/
theorem effect_inv {env : Env} (h : e.Inv) (henv : env.Inv) {i : Instr} (hp : precondition i e = true) :
    (effect i env e).Inv := by
  cases i with
  | nop => exact h
  | start => exact startEffect_inv henv e
  | endPass => exact engineReset_inv
  | csclr => exact inv_of_operand_writes h e.ill 0#8 0#16 h.fits.arg0 h.fits.arg1
  | cspush imm8 => exact absorb_inv h [imm8]
  | csrng => exact absorb_inv h _
  | pmain => exact pmainEffect_inv env h hp
  | penc => exact pencEffect_inv env h hp
  | eopen => exact eopenEffect_inv env h hp
  | pmeta => exact pmetaEffect_inv env h hp
  | pdata => exact pdataEffect_inv env h hp
  | binit => exact binitEffect_inv env h hp
  | bnext => exact bnextEffect_inv env h hp

/-- A settled verdict leaves `FLEN` alone when the writes do. -/
theorem settle_flen {α : Type} (v : Verdict α) {writes : α → Engine → Engine} (hw : ∀ a, (writes a e).flen = e.flen) :
    (v.settle writes e).flen = e.flen :=
  settle_of (P := fun e' => e'.flen = e.flen) v writes e (fun _ _ _ _ _ _ => rfl) fun a _ => hw a

/-- No command raises `FLEN` above a bound of `FLEN` and, for `START`, of `FLEN_IN`: `START` samples it, `END` clears it,
and no other command writes it (R8). -/
theorem effect_flen_le {env : Env} {i : Instr} {n : Nat} (h : e.flen ≤ n) (hs : i = .start → env.flenIn ≤ n) :
    (effect i env e).flen ≤ n := by
  cases i with
  | nop | csclr | cspush _ | csrng => exact h
  | start => exact hs rfl
  | endPass => exact Nat.zero_le n
  | pmain => rw [effect, pmainEffect_eq, settle_flen _ fun _ => rfl]; exact h
  | penc => rw [effect, pencEffect_eq, settle_flen _ fun _ => rfl]; exact h
  | eopen => rw [effect, eopenEffect_eq, settle_flen _ fun _ => rfl]; exact h
  | pmeta => rw [effect, pmetaEffect_eq, settle_flen _ fun _ => rfl]; exact h
  | pdata => rw [effect, pdataEffect_eq, settle_flen _ fun _ => rfl]; exact h
  | binit => rw [effect, binitEffect_eq, settle_flen _ fun _ => rfl]; exact h
  | bnext => rw [effect, bnextEffect_eq, settle_flen _ fun found => by cases found <;> rfl]; exact h

/-- An issued command, done or refused, keeps the invariant of the machine; `START` under the host duty of R137. -/
theorem command_inv {s : State} (h : s.Inv) {i : Instr} (hs : i = .start → s.env.flenIn ≤ s.env.fileLen)
    (rest : List HostMove) :
    State.Inv { s with
      eng := if precondition i s.eng then effect i s.env s.eng else refuse s.eng
      host := rest } := by
  split
  next hp => exact ⟨effect_inv h.eng h.env hp, h.env, effect_flen_le h.flen hs⟩
  next => exact ⟨refuse_inv h.eng, h.env, h.flen⟩

/-- A file placed while no pass runs keeps the invariant: it is canonical, and `FLEN` is 0 (R12, R138). -/
theorem place_inv {s : State} (h : s.Inv) (hr : s.eng.run = false) (bytes : List Byte) (rest : List HostMove) :
    State.Inv { s with
      env := { s.env with file := Memory.ofBytes 0 bytes, fileLen := bytes.length }
      host := rest } where
  eng := h.eng
  env :=
    { fileWf := ofBytes_wf bytes 0
      fileBelow := by simpa using ofBytes_below bytes 0
      flenIn := h.env.flenIn }
  flen := by
    have hflen : s.eng.flen = 0 := congrArg Engine.flen (h.eng.idle hr)
    exact hflen.trans_le (Nat.zero_le _)

end Sys2Proof.Machine

open Sys2Proof Sys2Proof.Machine

/-- Settles O58, by the cases of a step: a command by its effect or its refusal, every other host move by what it writes. -/
theorem everyStepKeepsTheInvariant : Obligations.EveryStepKeepsTheInvariant := by
  intro s t h hstep
  have hargs := h.eng.fits
  cases stepCase_of_step hstep with
  | idle _ ht => subst ht; exact h
  | reserved rest v _ ht => subst ht; exact ⟨refuse_inv h.eng, h.env, h.flen⟩
  | command rest v i _ _ _ hs ht => subst ht; exact command_inv h hs rest
  | arg0 rest v _ hv ht =>
    subst ht
    exact ⟨inv_of_operand_writes h.eng s.eng.ill s.eng.acc8 s.eng.acc16 hv hargs.arg1, h.env, h.flen⟩
  | arg1 rest v _ hv ht =>
    subst ht
    exact ⟨inv_of_operand_writes h.eng s.eng.ill s.eng.acc8 s.eng.acc16 hargs.arg0 hv, h.env, h.flen⟩
  | ignored m rest _ ht => subst ht; exact ⟨h.eng, h.env, h.flen⟩
  | drive rest n present key _ hn ht => subst ht; exact ⟨h.eng, { h.env with flenIn := hn }, h.flen⟩
  | place rest bytes _ hr ht => subst ht; exact place_inv h hr bytes rest
  | reset rest _ ht => subst ht; exact ⟨engineReset_inv, h.env, Nat.zero_le _⟩
end

section
/-! The flags, registers and views the host sees, and what a command leaves alone. The parts, in order: the one word of a
command; which steps change `RUN` or clear `ILL`; the registers a decode command does not read, its inputs and its
secrets; STATUS and the bytes of a nonce; the moves of the host. -/

namespace Sys2Proof.Machine

/-! ### The one word of a command (R51, R52) -/

/-- A word that decodes is the word of its command. -/
theorem eq_encode_of_decode {w : Half} {i : Instr} (h : decode w = .ok i) : w = encode i := by
  rw [decode] at h
  split at h
  next hop => cases h; rw [encode, immediate, opcode, ← hop, immediate_append_opcode]
  next =>
    split at h
    next => cases h
    next j hj =>
      split at h
      next himm =>
        cases h
        obtain ⟨hop, himm0⟩ := opcode_of_implicitCommand hj
        rw [encode, hop, himm0, ← himm, immediate_append_opcode]
      next => cases h

/-- A value of 16 bits that decodes is the number of its command's word. -/
theorem value_of_decode {v : Nat} {i : Instr} (hv : v < 2 ^ 16) (h : decode (BitVec.ofNat 16 v) = .ok i) :
    v = (encode i).toNat := by
  rw [← eq_encode_of_decode h, BitVec.toNat_ofNat, Nat.mod_eq_of_lt hv]

/-! ### `RUN` and `ILL` (R7) -/

/-- A settled verdict leaves `RUN` and `ILL` alone when the writes do. -/
theorem settle_run_ill {α : Type} {e : Engine} (v : Verdict α) {writes : α → Engine → Engine}
    (hw : ∀ a, (writes a e).run = e.run ∧ (writes a e).ill = e.ill) :
    (v.settle writes e).run = e.run ∧ (v.settle writes e).ill = e.ill :=
  settle_of (P := fun e' => e'.run = e.run ∧ e'.ill = e.ill) v writes e (fun _ _ _ _ _ _ => ⟨rfl, rfl⟩) fun a _ => hw a

/-- The effect of a command other than `START` and `END` leaves `RUN` and `ILL` alone (R7). -/
theorem effect_run_ill {i : Instr} (env : Env) (e : Engine) (hs : i ≠ .start) (he : i ≠ .endPass) :
    (effect i env e).run = e.run ∧ (effect i env e).ill = e.ill := by
  cases i with
  | start => exact absurd rfl hs
  | endPass => exact absurd rfl he
  | nop | csclr | cspush _ | csrng => exact ⟨rfl, rfl⟩
  | pmain => rw [effect, pmainEffect_eq]; exact settle_run_ill _ fun _ => ⟨rfl, rfl⟩
  | penc => rw [effect, pencEffect_eq]; exact settle_run_ill _ fun _ => ⟨rfl, rfl⟩
  | eopen => rw [effect, eopenEffect_eq]; exact settle_run_ill _ fun _ => ⟨rfl, rfl⟩
  | pmeta => rw [effect, pmetaEffect_eq]; exact settle_run_ill _ fun _ => ⟨rfl, rfl⟩
  | pdata => rw [effect, pdataEffect_eq]; exact settle_run_ill _ fun _ => ⟨rfl, rfl⟩
  | binit => rw [effect, binitEffect_eq]; exact settle_run_ill _ fun _ => ⟨rfl, rfl⟩
  | bnext => rw [effect, bnextEffect_eq]; exact settle_run_ill _ fun found => by cases found <;> exact ⟨rfl, rfl⟩

/-- No command that has its effect sets `ILL` (R7, R55). -/
theorem effect_ill_of_clear {i : Instr} (env : Env) {e : Engine} (h : e.ill = false) : (effect i env e).ill = false := by
  by_cases hs : i = .start
  · subst hs; rfl
  by_cases he : i = .endPass
  · subst he; rfl
  rw [(effect_run_ill env e hs he).2, h]

/-- What a step does to `RUN` and `ILL`. -/
inductive RunIllCase (s t : State) : Prop
  | kept (hrun : t.eng.run = s.eng.run) (hill : s.eng.ill = true → t.eng.ill = true)
  | started (rest : List HostMove) (h : s.host = .write 0 0x0001 :: rest) (hrun : t.eng.run = true)
  | cleared (m : HostMove) (rest : List HostMove) (h : s.host = m :: rest) (hm : m = .reset ∨ m = .write 0 0x0002)
      (hrun : t.eng.run = false)

/-- A step keeps `RUN` and does not clear `ILL`, or it starts a pass, or it leaves the reset state (R7). -/
theorem runIllCase_of_step {s t : State} (h : step s = .next t) : RunIllCase s t := by
  cases stepCase_of_step h with
  | idle _ ht => subst ht; exact .kept rfl id
  | reserved rest v _ ht => subst ht; exact .kept rfl fun _ => rfl
  | command rest v i hh hv hd _ ht =>
    have hw := value_of_decode hv hd
    by_cases hs : i = .start
    · subst hs; subst hw; subst ht; exact .started rest hh rfl
    by_cases he : i = .endPass
    · subst he; subst hw; subst ht; exact .cleared _ rest hh (.inr rfl) rfl
    obtain ⟨hrun, hill⟩ := effect_run_ill s.env s.eng hs he
    subst ht
    cases hp : precondition i s.eng with
    | true => exact .kept (by simp [hrun]) (by simp [hill])
    | false => exact .kept (by simp) (by simp)
  | arg0 rest v _ _ ht => subst ht; exact .kept rfl id
  | arg1 rest v _ _ ht => subst ht; exact .kept rfl id
  | ignored m rest _ ht => subst ht; exact .kept rfl id
  | drive rest n present key _ _ ht => subst ht; exact .kept rfl id
  | place rest bytes _ _ ht => subst ht; exact .kept rfl id
  | reset rest hh ht => subst ht; exact .cleared _ rest hh (.inl rfl) rfl

/-! ### What a command does not read (R13, R30, R73) -/

/-- The engine with its secrets and its accumulators changed: the registers no decode command but `EOPEN` reads or
writes. -/
def Engine.mapUnread (key keymat : Vector Byte 32 → Vector Byte 32) (acc8 : Byte → Byte) (acc16 : Half → Half)
    (e : Engine) : Engine :=
  { e with key := key e.key, keymat := keymat e.keymat, acc8 := acc8 e.acc8, acc16 := acc16 e.acc16 }

section
variable (key keymat : Vector Byte 32 → Vector Byte 32) (acc8 : Byte → Byte) (acc16 : Half → Half)

/-- Settling a verdict commutes with a change of the unread registers when the writes do. -/
theorem settle_mapUnread {α : Type} (v : Verdict α) {writes : α → Engine → Engine} {e : Engine}
    (hw : ∀ a, writes a (e.mapUnread key keymat acc8 acc16) = (writes a e).mapUnread key keymat acc8 acc16) :
    v.settle writes (e.mapUnread key keymat acc8 acc16) = (v.settle writes e).mapUnread key keymat acc8 acc16 :=
  settle_comm v writes (·.mapUnread key keymat acc8 acc16) e (fun _ _ _ _ _ => rfl) hw

/-- A decode command other than `EOPEN` does the same whatever the secrets and the accumulators hold. -/
theorem effect_mapUnread {i : Instr} (hi : isDecodeCommand i = true) (ho : i ≠ .eopen) (env : Env) (e : Engine) :
    effect i env (e.mapUnread key keymat acc8 acc16) = (effect i env e).mapUnread key keymat acc8 acc16 := by
  cases i with
  | nop | start | endPass | csclr | cspush _ | csrng => cases hi
  | eopen => exact absurd rfl ho
  | pmain => simp only [effect, pmainEffect_eq]; exact settle_mapUnread _ _ _ _ _ fun _ => rfl
  | penc => simp only [effect, pencEffect_eq]; exact settle_mapUnread _ _ _ _ _ fun _ => rfl
  | pmeta => simp only [effect, pmetaEffect_eq]; exact settle_mapUnread _ _ _ _ _ fun _ => rfl
  | pdata => simp only [effect, pdataEffect_eq]; exact settle_mapUnread _ _ _ _ _ fun _ => rfl
  | binit => simp only [effect, binitEffect_eq]; exact settle_mapUnread _ _ _ _ _ fun _ => rfl
  | bnext =>
    simp only [effect, bnextEffect_eq]
    exact settle_mapUnread _ _ _ _ _ fun found => by cases found <;> rfl

end

/-- `EOPEN` does the same whatever the accumulators hold (R73). -/
theorem eopenEffect_accumulators (env : Env) (e : Engine) (a : Byte) (b : Half) :
    eopenEffect env { e with acc8 := a, acc16 := b } = { eopenEffect env e with acc8 := a, acc16 := b } := by
  simp only [eopenEffect_eq]
  exact settle_comm _ _ (fun e => { e with acc8 := a, acc16 := b }) e (fun _ _ _ _ _ => rfl) fun _ => rfl

/-- `NOP` and the decode commands do the same whatever the accumulators hold (R73). -/
theorem effect_accumulators {i : Instr} (hi : i = .nop ∨ isDecodeCommand i = true) (env : Env) (e : Engine) (a : Byte)
    (b : Half) : effect i env { e with acc8 := a, acc16 := b } = { effect i env e with acc8 := a, acc16 := b } := by
  rcases hi with rfl | hi
  · rfl
  by_cases ho : i = .eopen
  · subst ho; exact eopenEffect_accumulators env e a b
  · exact effect_mapUnread id id (fun _ => a) (fun _ => b) hi ho env e

/-- The accumulators are no part of any precondition (R59). -/
theorem precondition_accumulators (i : Instr) (e : Engine) (a : Byte) (b : Half) :
    precondition i { e with acc8 := a, acc16 := b } = precondition i e := by
  cases i <;> rfl

/-- The effect of a command other than `START` does not depend on the launch inputs (R13). -/
theorem effect_launchInputs {i : Instr} (hi : i ≠ .start) (env : Env) (e : Engine) (flenIn : Nat) (present : Bool)
    (key : Vector Byte 32) :
    effect i { env with flenIn := flenIn, keyPresent := present, keyIn := key } e = effect i env e := by
  cases i with
  | start => exact absurd rfl hi
  | nop | endPass | csclr | cspush _ | csrng | pmain | penc | eopen | pmeta | pdata | binit | bnext => rfl

/-- The secrets are no part of any precondition (R59). -/
theorem precondition_withoutSecrets (i : Instr) (e : Engine) : precondition i e.withoutSecrets = precondition i e := by
  cases i <;> rfl

/-- What a command other than `EOPEN` does to the rest of the engine does not depend on the secrets (R30, R127). -/
theorem effect_withoutSecrets {i : Instr} (ho : i ≠ .eopen) (env : Env) (e : Engine) :
    (effect i env e.withoutSecrets).withoutSecrets = (effect i env e).withoutSecrets := by
  cases hi : isDecodeCommand i with
  | true =>
    have hcomm : effect i env e.withoutSecrets = (effect i env e).withoutSecrets :=
      effect_mapUnread (fun _ => Vector.replicate 32 0#8) (fun _ => Vector.replicate 32 0#8) id id hi ho env e
    rw [hcomm]; rfl
  | false =>
    cases i with
    | nop | start | endPass | csclr | cspush _ | csrng => rfl
    | pmain | penc | eopen | pmeta | pdata | binit | bnext => cases hi

/-- A command other than `EOPEN`, done or refused, does the same to the rest of the engine whatever the secrets hold. -/
theorem command_withoutSecrets {i : Instr} (ho : i ≠ .eopen) (env : Env) (e : Engine) :
    (if precondition i e.withoutSecrets then effect i env e.withoutSecrets else refuse e.withoutSecrets).withoutSecrets =
      (if precondition i e then effect i env e else refuse e).withoutSecrets := by
  rw [precondition_withoutSecrets]
  split
  · exact effect_withoutSecrets ho env e
  · rfl

/-- No host read depends on the secrets (R30). -/
theorem hostRead_withoutSecrets (e : Engine) (reg i : Nat) : hostRead e.withoutSecrets reg i = hostRead e reg i := rfl

/-! ### STATUS and the nonce (R28, R112) -/

/-- Bit `k` of STATUS is flag `k` of the list, and 0 beyond the list (R28). -/
theorem status_getLsbD (e : Engine) (k : Nat) : e.status.getLsbD k = e.statusFlags.getD k false := by
  rw [Engine.status, BitVec.getLsbD_ofNat, testBit_bitsToNat]
  by_cases hk : k < 32
  · simp [hk]
  · have hlen : e.statusFlags.length ≤ k := by simp [Engine.statusFlags]; omega
    simp [hk, List.getElem?_eq_none hlen]

/-- The low byte of a number of 16 bits. -/
theorem extractLsb'_low (num : Half) : num.extractLsb' 0 8 = BitVec.ofNat 8 (num.toNat % 256) :=
  BitVec.eq_of_toNat_eq (by simp)

/-- The high byte of a number of 16 bits. -/
theorem extractLsb'_high (num : Half) : num.extractLsb' 8 8 = BitVec.ofNat 8 (num.toNat / 256) :=
  BitVec.eq_of_toNat_eq (by simp [Nat.shiftRight_eq_div_pow])

/-- The nonce of a block number is its two bytes, low byte first, then 22 zero bytes (R112). -/
theorem nonceOf_toList (num : Half) :
    (nonceOf num).toList = [num.extractLsb' 0 8, num.extractLsb' 8 8] ++ List.replicate 22 0#8 := by
  rw [nonceOf, byteArray, Vector.toList_ofFn]; rfl

/-! ### The moves of the host (R29) -/

/-- A step with a move to come makes it. -/
theorem step_of_host {s : State} {m : HostMove} {rest : List HostMove} (h : s.host = m :: rest) :
    step s = hostMove m { s with host := rest } := by
  simp only [step, nextMove, h]

/-- What it is for a value to fit `ARG0` or `ARG1` (R10). -/
theorem fitsRegister_arg {reg : Nat} (h : reg = 2 ∨ reg = 3) (v : Nat) :
    fitsRegister reg v = true ↔ v < 2 ^ (Config.aw + 1) := by
  rcases h with rfl | rfl <;> exact fitsOffset_iff 1 v

/-- A write to `ARG0` of a value that fits sets it and nothing else (R10, R29). -/
theorem hostWrite_arg0 {v : Nat} (s : State) (h : v < 2 ^ (Config.aw + 1)) :
    hostWrite 2 v s = .next { s with eng := { s.eng with arg0 := v } } := by
  rw [hostWrite, if_pos ((fitsRegister_arg (.inl rfl) v).2 h)]; rfl

/-- A write to `ARG1` of a value that fits sets it and nothing else (R10, R29). -/
theorem hostWrite_arg1 {v : Nat} (s : State) (h : v < 2 ^ (Config.aw + 1)) :
    hostWrite 3 v s = .next { s with eng := { s.eng with arg1 := v } } := by
  rw [hostWrite, if_pos ((fitsRegister_arg (.inr rfl) v).2 h)]; rfl

/-- A write to a number other than those of `CMD`, `ARG0` and `ARG1` is ignored (R29). -/
theorem hostWrite_ignored {reg : Nat} (v : Nat) (s : State) (h0 : reg ≠ 0) (h2 : reg ≠ 2) (h3 : reg ≠ 3) :
    hostWrite reg v s = .next s := by
  simp [hostWrite, fitsRegister, h0, h2, h3]

/-- A step that writes a value too wide for its register stops the model (log 9). -/
theorem step_write_tooWide {s : State} {rest : List HostMove} {reg v : Nat} (h : s.host = .write reg v :: rest)
    (hv : ¬fitsRegister reg v = true) : step s = .fault .valueTooWide := by
  rw [step_of_host h, hostMove, hostWrite, if_neg hv]

/-- `CMD` and the numbers no register stands at read 0: every row of the table of R29 has another number. -/
theorem hostRead_unassigned (e : Engine) {reg : Nat} (i : Nat) (h : reg = 0 ∨ (49 ≤ reg ∧ reg ≤ 63) ∨ 64 < reg) :
    hostRead e reg i = .num 0 := by
  unfold hostRead
  split <;> try omega
  rfl

end Sys2Proof.Machine

open Sys2Proof Sys2Proof.Machine

/-- Settles O7: of the steps only those that start a pass or leave the reset state clear `ILL`, and of the two outcomes of
a command only the refusal sets it. -/
theorem illIsStickyAndAlone : Obligations.IllIsStickyAndAlone := by
  constructor
  · intro s t hstep hs ht
    cases runIllCase_of_step hstep with
    | kept _ hill => exact absurd (ht.symm.trans (hill hs)) nofun
    | started rest h _ => exact ⟨_, rest, h, .inr (.inl rfl)⟩
    | cleared m rest h hm _ => exact ⟨m, rest, h, hm.imp_right .inr⟩
  · intro i s t hexec hs ht
    cases hp : precondition i s.eng with
    | true =>
      rw [exec_ready hp] at hexec
      cases hexec
      exact absurd ((effect_ill_of_clear s.env hs).symm.trans ht) nofun
    | false => rw [exec_refused hp] at hexec; cases hexec; rfl

/-- Settles O8, by what a step can do to `RUN`. -/
theorem runChangesOnlyByStartEndReset : Obligations.RunChangesOnlyByStartEndReset := by
  intro s t hstep
  cases runIllCase_of_step hstep with
  | kept hrun _ =>
    rw [hrun]
    exact ⟨fun hf ht => absurd (hf.symm.trans ht) nofun, fun ht hf => absurd (hf.symm.trans ht) nofun⟩
  | started rest h hrun => exact ⟨fun _ _ => ⟨rest, h⟩, fun _ hf => absurd (hrun.symm.trans hf) nofun⟩
  | cleared m rest h hm hrun => exact ⟨fun _ ht => absurd (hrun.symm.trans ht) nofun, fun _ _ => ⟨m, rest, h, hm⟩⟩

/-- Settles O36. That a command keeps the accumulators is the same fact read at the values they have: a run that begins
with them ends with them. -/
theorem accumulatorsAreTheChecksumUnits : Obligations.AccumulatorsAreTheChecksumUnits := by
  intro i s t a b hstart hend hclr hpush hrng hexec
  have hi : i = .nop ∨ isDecodeCommand i = true := by
    cases i with
    | start => exact absurd rfl hstart
    | endPass => exact absurd rfl hend
    | csclr => exact absurd rfl hclr
    | cspush imm8 => exact absurd rfl (hpush imm8)
    | csrng => exact absurd rfl hrng
    | nop => exact .inl rfl
    | pmain | penc | eopen | pmeta | pdata | binit | bnext => exact .inr rfl
  have hcomm : ∀ a b, exec i { s with eng := { s.eng with acc8 := a, acc16 := b } } =
      .next { t with eng := { t.eng with acc8 := a, acc16 := b } } := fun a b =>
    exec_comm (fun e => { e with acc8 := a, acc16 := b }) id hexec (precondition_accumulators i s.eng a b)
      (fun _ => effect_accumulators hi s.env s.eng a b) rfl
  have hsame : t = { t with eng := { t.eng with acc8 := s.eng.acc8, acc16 := s.eng.acc16 } } :=
    Host.Outcome.next.inj (hexec.symm.trans (hcomm s.eng.acc8 s.eng.acc16))
  exact ⟨congrArg (·.eng.acc8) hsame, congrArg (·.eng.acc16) hsame, hcomm a b⟩

/-- Settles O46: each of the four is done or refused, and its effect writes the accumulators alone. -/
theorem frameOfTheChecksumCommands : Obligations.FrameOfTheChecksumCommands := by
  rintro i s t (rfl | rfl | ⟨imm8, rfl⟩ | rfl) hexec
  · cases hexec; exact ⟨rfl, fun _ => rfl, fun _ => ⟨rfl, rfl⟩⟩
  · cases hexec; exact ⟨rfl, fun _ => rfl, fun _ => ⟨rfl, rfl⟩⟩
  · cases hexec; exact ⟨rfl, fun _ => rfl, fun _ => ⟨rfl, rfl⟩⟩
  · cases hp : precondition .csrng s.eng with
    | true => rw [exec_ready hp] at hexec; cases hexec; exact ⟨rfl, fun h => absurd rfl h, fun _ => ⟨rfl, rfl⟩⟩
    | false => rw [exec_refused hp] at hexec; cases hexec; exact ⟨rfl, fun h => absurd rfl h, fun _ => ⟨rfl, rfl⟩⟩

/-- Settles O49: the effects of the other commands do not mention the launch inputs, and `START` with no key mentions
`KEY_IN` only in the branch it does not take. -/
theorem launchInputsAreSampledByStartOnly : Obligations.LaunchInputsAreSampledByStartOnly := by
  constructor
  · intro i s t flenIn present key hi hexec
    exact exec_comm id (fun env => { env with flenIn := flenIn, keyPresent := present, keyIn := key }) hexec rfl
      (fun _ => effect_launchInputs hi s.env s.eng flenIn present key) rfl
  · intro s t key hkey hexec
    exact exec_comm id (fun env => { env with keyIn := key }) hexec rfl
      (fun _ => by simp [effect, startEffect, hkey]) rfl

/-- Settles O50, by the bits of the number of the list of flags. -/
theorem statusBitsAreTheFlags : Obligations.StatusBitsAreTheFlags := by
  intro e
  simp only [status_getLsbD]
  refine ⟨rfl, rfl, rfl, rfl, rfl, rfl, rfl, rfl, rfl, rfl, rfl, rfl, fun k hk => ?_⟩
  exact List.getD_eq_default _ _ hk

/-- Settles O53: nothing the host reads and nothing a command other than `EOPEN` does to the rest of the engine depends on
the secrets. -/
theorem secretsAreNotObservable : Obligations.SecretsAreNotObservable := by
  constructor
  · intro e f reg i h
    rw [← hostRead_withoutSecrets e, h, hostRead_withoutSecrets f]
  · intro i s t f hi h hexec
    cases eq_of_exec hexec
    refine ⟨_, exec_eq i { s with eng := f }, ?_⟩
    rw [← command_withoutSecrets hi s.env f, ← h, command_withoutSecrets hi]

/-- Settles O51: each view is gated by its flag, and the nonce's bytes are those of the block number. -/
theorem viewsAreGated : Obligations.ViewsAreGated := by
  intro e i
  refine ⟨rfl, rfl, rfl, rfl, rfl, rfl, rfl, rfl, ?_⟩
  show HostValue.bytes e.blkNonce.toList = _
  cases hb : e.blkv with
  | true => simp [Engine.blkNonce, hb, nonceOf_toList, extractLsb'_low, extractLsb'_high]
  | false => simp [Engine.blkNonce, hb]

/-- Settles O52, move by move and then register by register. -/
theorem hostAccessRule : Obligations.HostAccessRule := by
  refine ⟨fun s rest v reg i present key bytes => ⟨?_, ?_, ?_, ?_, ?_, ?_⟩, fun e reg i => ⟨?_, ?_, ?_, ?_⟩⟩
  · intro h hv
    rw [step_of_host h, hostMove, hostWrite_arg0 _ hv]
  · intro h hv
    rw [step_of_host h, hostMove, hostWrite_arg1 _ hv]
  · intro h h0 h2 h3
    rw [step_of_host h, hostMove, hostWrite_ignored v _ h0 h2 h3]
  · intro h
    rw [step_of_host h]; rfl
  · intro h hv
    rw [step_of_host h, hostMove, hostDrive, if_pos ((fitsOffset_iff 0 v).2 hv)]
  · intro h hr
    refine ⟨Memory.ofBytes 0 bytes, ?_, fun a ha => ?_⟩
    · rw [step_of_host h, hostMove, hostPlace, if_neg (Bool.eq_false_iff.1 hr)]
    · simp [read_ofBytes, byteAt, ha]
  · rfl
  · exact hostRead_unassigned e i
  · intro hi
    show HostValue.num (e.pihWindow i).toNat = _
    rw [Engine.pihWindow, if_pos hi]
  · intro hi
    show HostValue.num (e.pihWindow i).toNat = _
    rw [Engine.pihWindow, if_neg (Nat.not_lt.2 hi)]; rfl

/-- Settles O60: each stop is the test of its move. -/
theorem hostMisuseStopsTheModel : Obligations.HostMisuseStopsTheModel := by
  intro s rest bytes v present key
  refine ⟨fun h hr => ?_, fun h hf => ?_, fun h hv => ?_, fun h hv => ?_, fun h hv => ?_⟩
  · rw [step_of_host h, hostMove, hostPlace, if_pos hr]
  · have hd : decode (BitVec.ofNat 16 1) = .ok .start := by decide
    rw [step_of_host h, hostMove]
    simp [hostWrite, fitsRegister, issue, hd, hf]
  · exact step_write_tooWide h (by simpa [fitsRegister] using hv)
  · rcases h with h | h
    · exact step_write_tooWide h (mt (fitsRegister_arg (.inl rfl) v).1 (Nat.not_lt.2 hv))
    · exact step_write_tooWide h (mt (fitsRegister_arg (.inr rfl) v).1 (Nat.not_lt.2 hv))
  · rw [step_of_host h, hostMove, hostDrive, if_neg (mt (fitsOffset_iff 0 v).1 (Nat.not_lt.2 hv))]
end

section
/-! What a command reads of FILE, and what no command and no step of a pass writes of it. The parts, in order: the two
little-endian conversions; a command's effect on two inputs that agree below `FLEN`; the inputs under a command and a
step. -/

namespace Sys2Proof.Machine

/-! ### Byte order (R33) -/

/-- A `u32` conversion loses nothing (R33). -/
theorem toNat_le32 (a b c d : Byte) :
    (le32 [a, b, c, d]).toNat = a.toNat + 256 * b.toNat + 65536 * c.toNat + 16777216 * d.toNat := by
  have := a.isLt; have := b.isLt; have := c.isLt; have := d.isLt
  simp only [le32, leNat, BitVec.toNat_ofNat]; omega

/-! ### Reads of FILE (R31, R39) -/

/-- A truncated blob is reported whatever tag and reply are at hand (R88). -/
theorem eopenVerdict_truncated {flen ehs : Nat} (tag : Vector Byte 16) (reply : AeadReply) (h : flen - 42 < ehs + 16) :
    eopenVerdict flen ehs tag reply = .fails .truncatedInput .blob 42 (ehs + 16) (flen - 42) :=
  if_pos h

section
variable {env env' : Env} {e : Engine}

/-- The tag and the request of `EOPEN` are read from `FILE[0, 58 + ehs)`, below `FLEN` unless the blob is truncated (R88). -/
theorem eopenEffect_congr (h : env.agreeBelow env' e.flen) : eopenEffect env' e = eopenEffect env e := by
  obtain ⟨hread, -, -, -, haead⟩ := h
  rw [eopenEffect_eq, eopenEffect_eq]
  by_cases hl : e.flen - 42 < e.ehs + 16
  · rw [eopenVerdict_truncated _ _ hl, eopenVerdict_truncated _ _ hl]
  · have hreq : envelopeRequest env e = envelopeRequest env' e :=
      envelopeRequest_congr fun a ha => hread a (by omega)
    have htag : envelopeTag env e = envelopeTag env' e := congrArg AeadRequest.tag hreq
    rw [hreq, htag, Env.aeadOpen, Env.aeadOpen, haead]

/-- `CSRNG` reads `FILE[ARG0, ARG0 + ARG1)`, which its precondition puts below `FLEN` (R69). -/
theorem csrngBytes_congr (h : env.agreeBelow env' e.flen) (hp : precondition .csrng e = true) :
    env'.fileBytes e.arg0 e.arg1 = env.fileBytes e.arg0 e.arg1 := by
  obtain ⟨-, hrange⟩ : e.run = true ∧ e.arg0 + e.arg1 ≤ e.flen := by simpa [precondition] using hp
  exact bytes_congr _ _ fun a _ ha => (h.1 a (by omega)).symm

/-- The effect of a command is the same on two inputs that agree below `FLEN` (R31, R39). -/
theorem effect_congr {i : Instr} (h : env.agreeBelow env' e.flen) (hp : precondition i e = true) :
    effect i env' e = effect i env e := by
  have ⟨hread, hflen, hpresent, hkey, _⟩ := h
  cases i with
  | nop | endPass | csclr | cspush _ | pmeta | pdata | binit => rfl
  | start => simp only [effect, startEffect, hflen, hpresent, hkey]
  | csrng => rw [effect, effect, csrngBytes_congr h hp]
  | pmain => rw [effect, effect, pmainEffect_eq, pmainEffect_eq, pmainVerdict_congr fun a _ ha => hread a ha]
  | penc => rw [effect, effect, pencEffect_eq, pencEffect_eq, pencVerdict_congr fun a _ _ ha => hread a ha]
  | eopen => exact eopenEffect_congr h
  | bnext => rw [effect, effect, bnextEffect_eq, bnextEffect_eq, bnextVerdict_congr fun a _ _ ha => hread a ha]

end

/-! ### Writes of FILE (R36, R138) -/

/-- A command, done or refused, leaves the inputs and the moves of the host alone (R36). -/
theorem exec_env_host {i : Instr} {s t : State} (h : exec i s = .next t) : t.env = s.env ∧ t.host = s.host := by
  rw [eq_of_exec h]; exact ⟨rfl, rfl⟩

/-- A step during a pass leaves FILE and its length alone: the one move that writes them stops the model (R138). -/
theorem step_file_of_run {s t : State} (h : step s = .next t) (hrun : s.eng.run = true) :
    t.env.fileLen = s.env.fileLen ∧ t.env.file = s.env.file := by
  cases stepCase_of_step h with
  | idle _ ht | reserved _ _ _ ht | command _ _ _ _ _ _ _ ht | arg0 _ _ _ _ ht | arg1 _ _ _ _ ht | ignored _ _ _ ht
  | drive _ _ _ _ _ _ ht | reset _ _ ht => subst ht; exact ⟨rfl, rfl⟩
  | place _ _ _ hidle _ => exact absurd (hidle.symm.trans hrun) nofun

end Sys2Proof.Machine

open Sys2Proof Sys2Proof.Machine

/-- Settles O22: a precondition sees the engine alone, and an effect reads FILE only below `FLEN`. -/
theorem noReadAtOrBeyondFlen : Obligations.NoReadAtOrBeyondFlen := by
  intro i s t env hagree hexec
  exact exec_comm id (fun _ => env) hexec rfl (effect_congr hagree) rfl

/-- Settles O23: a command writes the engine alone, and placing a file is no move of a pass. -/
theorem fileIsImmutableDuringAPass : Obligations.FileIsImmutableDuringAPass := by
  refine ⟨fun i s t hexec => exec_env_host hexec, fun s t hstep hrun => ?_⟩
  obtain ⟨hlen, hfile⟩ := step_file_of_run hstep hrun
  exact ⟨hlen, fun a => by rw [hfile]⟩

/-- Settles O21: the number two or four bytes stand for fits the field, so the conversion drops nothing. -/
theorem conversionIsLittleEndian : Obligations.ConversionIsLittleEndian :=
  ⟨toNat_le16, toNat_le32⟩
end

section
/-! The command word, and what issuing one does. The parts, in order: the two fields of a command's word; the rows of the
opcode map; the steps that write to `CMD`, `ARG0` or `ARG1`, and refusal; the registers that are stored only; the progress
of `BNEXT`. -/

namespace Sys2Proof.Machine

/-! ### The fields of a command's word (R51 to R53) -/

@[simp] theorem opcodeOf_encode (i : Instr) : opcodeOf (encode i) = opcode i :=
  BitVec.extractLsb'_append_eq_right

@[simp] theorem imm8Of_encode (i : Instr) : imm8Of (encode i) = immediate i :=
  BitVec.extractLsb'_append_eq_left

/-- The word of a command decodes to it: `CSPUSH` by its opcode alone, every other command with the immediate 0. -/
theorem decode_encode (i : Instr) : decode (encode i) = .ok i := by
  rw [decode, opcodeOf_encode, imm8Of_encode]
  cases i with
  | cspush imm8 => exact if_pos rfl
  | nop | start | endPass | csclr | csrng | pmain | penc | eopen | pmeta | pdata | binit | bnext => rfl

/-! ### The rows of the opcode map (R52) -/

/-- The word of a command selects one row, that of its mnemonic. -/
theorem selectedRow_encode (i : Instr) :
    (commandTable.filter (·.selects (encode i))).map (·.mnemonic) = [i.mnemonic] := by
  cases i with
  | nop => exact Laws.RowOfTable.nop
  | start => exact Laws.RowOfTable.start
  | endPass => exact Laws.RowOfTable.endPass
  | csclr => exact Laws.RowOfTable.csclr
  | cspush imm8 => exact Laws.RowOfTable.cspush imm8
  | csrng => exact Laws.RowOfTable.csrng
  | pmain => exact Laws.RowOfTable.pmain
  | penc => exact Laws.RowOfTable.penc
  | eopen => exact Laws.RowOfTable.eopen
  | pmeta => exact Laws.RowOfTable.pmeta
  | pdata => exact Laws.RowOfTable.pdata
  | binit => exact Laws.RowOfTable.binit
  | bnext => exact Laws.RowOfTable.bnext

/-- Some row selects the word of a command. -/
theorem exists_row_of_encode (i : Instr) : ∃ r ∈ commandTable, encode i &&& r.mask = r.pattern := by
  obtain ⟨r, hr, -⟩ := List.map_eq_singleton_iff.1 (selectedRow_encode i)
  obtain ⟨hmem, hsel⟩ := List.mem_filter.1 (hr ▸ List.mem_singleton_self r)
  exact ⟨r, hmem, beq_iff_eq.1 hsel⟩

/-- A row fixes the whole word, and then it is the word of its command; or it is the row of `CSPUSH`, which fixes the
opcode. -/
theorem row_shape : ∀ r ∈ commandTable,
    (r.mask = 0xFFFF#16 ∧ (decode r.pattern).isOk = true) ∨ (r.mask = 0x00FF#16 ∧ r.pattern = 0x0011#16) := by
  decide

/-- A word whose opcode is that of `CSPUSH` decodes, whatever its immediate (R53). -/
theorem decode_of_opcode_cspush {w : Half} (h : opcodeOf w = 0x11#8) : decode w = .ok (.cspush (imm8Of w)) := by
  rw [decode, if_pos h]

/-- The mask of `CSPUSH` keeps the opcode of a word. -/
theorem opcodeOf_and_lowByte (w : Half) : opcodeOf (w &&& 0x00FF#16) = opcodeOf w := by
  have hmask : opcodeOf 0x00FF#16 = BitVec.allOnes 8 := by decide
  calc opcodeOf (w &&& 0x00FF#16) = opcodeOf w &&& opcodeOf 0x00FF#16 := BitVec.extractLsb'_and
    _ = opcodeOf w := by rw [hmask, BitVec.and_allOnes]

/-- A word a row of the map selects decodes. -/
theorem decodes_of_selected {w : Half} {r : Row} (hr : r ∈ commandTable) (hsel : w &&& r.mask = r.pattern) :
    ∃ i, decode w = .ok i := by
  rcases row_shape r hr with ⟨hmask, hok⟩ | ⟨hmask, hpattern⟩
  · have hw : w = r.pattern := by
      rw [← hsel, hmask]
      exact BitVec.and_allOnes.symm
    rw [hw]
    cases hd : decode r.pattern with
    | ok i => exact ⟨i, rfl⟩
    | error _ => rw [hd] at hok; cases hok
  · refine ⟨_, decode_of_opcode_cspush ?_⟩
    rw [← opcodeOf_and_lowByte, ← hmask, hsel, hpattern]
    decide

/-- The words that decode are those a row of the map selects. -/
theorem decodes_iff_selected (w : Half) :
    (∃ i, decode w = .ok i) ↔ ∃ r ∈ commandTable, w &&& r.mask = r.pattern := by
  constructor
  · rintro ⟨i, hi⟩
    rw [eq_encode_of_decode hi]
    exact exists_row_of_encode i
  · rintro ⟨r, hr, hsel⟩
    exact decodes_of_selected hr hsel

/-! ### A write to `CMD`, `ARG0` or `ARG1`, and refusal (R29, R51, R55) -/

section
variable {s : State} {rest : List HostMove}

/-- A step that writes a word to `CMD` issues it. -/
theorem step_issue {w : Half} (h : s.host = .write 0 w.toNat :: rest) : step s = issue w { s with host := rest } := by
  have hfits : fitsRegister 0 w.toNat = true := decide_eq_true w.isLt
  rw [step_of_host h, hostMove, hostWrite, if_pos hfits, if_pos rfl, BitVec.ofNat_toNat, BitVec.setWidth_eq]

/-- Issuing a word that decodes executes the command, `START` under the host duty of R137. -/
theorem issue_of_decode {w : Half} {i : Instr} (h : decode w = .ok i)
    (hs : i = .start → s.env.flenIn ≤ s.env.fileLen) : issue w s = exec i s := by
  simp only [issue, h]
  exact if_neg fun ⟨hi, hlt⟩ => Nat.not_lt.2 (hs hi) hlt

/-- Issuing a word that does not decode is refused (R55). -/
theorem issue_of_not_decodes {w : Half} (h : ¬∃ i, decode w = .ok i) :
    issue w s = .next { s with eng := refuse s.eng } := by
  cases hd : decode w with
  | ok i => exact absurd ⟨i, hd⟩ h
  | error _ => simp only [issue, hd]

/-- A step that issues a command other than `START` whose precondition holds has its effect. -/
theorem step_command {i : Instr} (h : s.host = command i :: rest) (hi : i ≠ .start)
    (hp : precondition i s.eng = true) : step s = .next { s with eng := effect i s.env s.eng, host := rest } := by
  rw [step_issue h, issue_of_decode (s := { s with host := rest }) (decode_encode i) fun hs => absurd hs hi]
  exact exec_ready hp

theorem step_write_arg0 {v : Nat} (h : s.host = .write 2 v :: rest) (hv : v < 2 ^ (Config.aw + 1)) :
    step s = .next { s with eng := { s.eng with arg0 := v }, host := rest } := by
  rw [step_of_host h, hostMove, hostWrite_arg0 _ hv]

theorem step_write_arg1 {v : Nat} (h : s.host = .write 3 v :: rest) (hv : v < 2 ^ (Config.aw + 1)) :
    step s = .next { s with eng := { s.eng with arg1 := v }, host := rest } := by
  rw [step_of_host h, hostMove, hostWrite_arg1 _ hv]

end

/-- A run goes on from the state its first step answers. -/
theorem run_succ_of_step {s t : State} (h : step s = .next t) (k : Nat) :
    Host.Core.run core (k + 1) s = Host.Core.run core k t := by
  have hcore : core.step s = .next t := h
  simp only [Host.Core.run, hcore]

/-- A command is refused where a condition its precondition implies fails (R55). -/
theorem exec_refused_unless {i : Instr} {s : State} {P : Prop} (hP : precondition i s.eng = true → P) (h : ¬P) :
    exec i s = .next { s with eng := { s.eng with ill := true } } :=
  exec_refused (Bool.eq_false_iff.2 (mt hP h))

/-! ### The registers that are stored only (R54, R77, R81, R96, R97) -/

section
variable (i : Instr) (m : MainHeader) (d : DataHeader) (epsz id : Half) (flags cs : Byte)

theorem precondition_varyStored (e : Engine) :
    precondition i (e.varyStored i m d epsz id flags cs) = precondition i e := by
  cases i <;> rfl

theorem refuse_varyStored (e : Engine) :
    refuse (e.varyStored i m d epsz id flags cs) = (refuse e).varyStored i m d epsz id flags cs := by
  cases i <;> rfl

/-- Settling a verdict commutes with a change of the stored registers when the writes do. -/
theorem settle_varyStored {α : Type} (v : Verdict α) {writes : α → Engine → Engine} {e : Engine}
    (hw : ∀ a, writes a (e.varyStored i m d epsz id flags cs) = (writes a e).varyStored i m d epsz id flags cs) :
    v.settle writes (e.varyStored i m d epsz id flags cs) = (v.settle writes e).varyStored i m d epsz id flags cs :=
  settle_comm v writes (·.varyStored i m d epsz id flags cs) e (fun _ _ _ _ _ => by cases i <;> rfl) hw

/-- The effect of a command does not depend on the stored registers it does not write, and leaves them alone. -/
theorem effect_varyStored (env : Env) (e : Engine) :
    effect i env (e.varyStored i m d epsz id flags cs) = (effect i env e).varyStored i m d epsz id flags cs := by
  cases i with
  | nop | start | endPass | csclr | cspush _ | csrng => rfl
  | pmain => simp only [effect, pmainEffect_eq]; exact settle_varyStored _ _ _ _ _ _ _ _ fun _ => rfl
  | penc => simp only [effect, pencEffect_eq]; exact settle_varyStored _ _ _ _ _ _ _ _ fun _ => rfl
  | eopen => simp only [effect, eopenEffect_eq]; exact settle_varyStored _ _ _ _ _ _ _ _ fun _ => rfl
  | pmeta => simp only [effect, pmetaEffect_eq]; exact settle_varyStored _ _ _ _ _ _ _ _ fun _ => rfl
  | pdata => simp only [effect, pdataEffect_eq]; exact settle_varyStored _ _ _ _ _ _ _ _ fun _ => rfl
  | binit => simp only [effect, binitEffect_eq]; exact settle_varyStored _ _ _ _ _ _ _ _ fun _ => rfl
  | bnext =>
    simp only [effect, bnextEffect_eq]
    exact settle_varyStored _ _ _ _ _ _ _ _ fun found => by cases found <;> rfl

end

/-! ### The progress of `BNEXT` (R102, R108) -/

/-- A block `BNEXT` passes with ends inside FILE. -/
theorem block_inside_of_passes {flen cur : Nat} {prevv : Bool} {prevNum : Half} {file : Memory} {b : BlockHeader}
    (h : bnextVerdict flen cur prevv prevNum file = .passes (some b)) : cur + 8 + b.paysz.toNat ≤ flen := by
  unfold bnextVerdict at h
  dsimp only at h
  split_ifs at h
  · cases h
  · cases h
    omega

/-- `BNEXT` closes the stream, cleanly or with an error, or yields a block that ends inside FILE. -/
theorem bnextEffect_closes_or_yields (env : Env) (e : Engine) :
    ((bnextEffect env e).bact = false ∧ ((bnextEffect env e).bend = true ∨ (bnextEffect env e).errf = true)) ∨
      ∃ b, bnextEffect env e = yieldBlock b e ∧ e.cur + 8 + b.paysz.toNat ≤ e.flen := by
  rw [bnextEffect_eq]
  cases hv : bnextVerdict e.flen e.cur e.prevv e.prevNum env.file with
  | fails k st off exp act => exact .inl ⟨rfl, .inr rfl⟩
  | passes found =>
    cases found with
    | none => exact .inl ⟨rfl, .inl rfl⟩
    | some b => exact .inr ⟨b, rfl, block_inside_of_passes hv⟩

/-- With `BEND` or `ERRF` set no further `BNEXT` is issued (R57). -/
theorem bnextUntilDone_of_done {s : State} (h : s.eng.bend = true ∨ s.eng.errf = true) (k : Nat) :
    bnextUntilDone k s = .next s := by
  cases k with
  | zero => rfl
  | succ k => rw [bnextUntilDone, if_pos (by simpa using h)]

/-- With the stream open the next `BNEXT` is issued (R57). -/
theorem bnextUntilDone_of_open {s : State} (hrun : s.eng.run = true) (herr : s.eng.errf = false)
    (hact : s.eng.bact = true) (hend : s.eng.bend = false) (k : Nat) :
    bnextUntilDone (k + 1) s = bnextUntilDone k { s with eng := bnextEffect s.env s.eng } := by
  have hp : precondition .bnext s.eng = true := by simp [precondition, hrun, herr, hact]
  rw [bnextUntilDone, exec_ready hp]
  exact if_neg (by simp [hend, herr])

end Sys2Proof.Machine

open Sys2Proof Sys2Proof.Machine

/-- Settles O1: an accepted word is its opcode and immediate put together, and taking a command's word apart gives the two
back. -/
theorem decodeAndEncodeAreInverse : Obligations.DecodeAndEncodeAreInverse := by
  intro w i
  constructor
  · exact eq_encode_of_decode
  · rintro rfl
    exact decode_encode i

/-- Settles O2: a word that decodes is the word of its command, whose one row is known. -/
theorem decodeReadsTheOpcodeMap : Obligations.DecodeReadsTheOpcodeMap := by
  intro w
  refine ⟨decodes_iff_selected w, fun i hi => ?_⟩
  rw [eq_encode_of_decode hi]
  exact selectedRow_encode i

/-- Settles O3: six of the words are those of their commands; the last two are no command's. -/
theorem writtenOutWordsDecode : Obligations.WrittenOutWordsDecode :=
  ⟨decode_encode .endPass, decode_encode .csrng, decode_encode (.cspush 0x41#8), decode_encode (.cspush 0xFF#8),
    decode_encode .eopen, decode_encode .bnext, by decide, by decide⟩

/-- Settles O4: the word is issued, and issuing a word that decodes executes its command. -/
theorem stepRunsTheDecodedCommand : Obligations.StepRunsTheDecodedCommand := by
  constructor
  · intro s rest w i hhost hd hs
    rw [step_issue hhost]
    exact issue_of_decode hd hs
  · intro s hhost
    simp only [step, nextMove, hhost]

/-- Settles O5: a word no row selects does not decode. -/
theorem reservedWordOnlySetsIll : Obligations.ReservedWordOnlySetsIll := by
  intro s rest w hhost hsel
  have hd : ¬∃ i, decode w = .ok i := fun hd =>
    have ⟨r, hr, h⟩ := (decodes_iff_selected w).1 hd
    hsel r hr h
  rw [step_issue hhost]
  exact issue_of_not_decodes hd

/-- Settles O6: each of the eight conditions follows from the command's precondition. -/
theorem refusedOutsideThePrecondition : Obligations.RefusedOutsideThePrecondition := by
  intro s
  refine ⟨exec_refused_unless ?_, exec_refused_unless ?_, exec_refused_unless ?_, exec_refused_unless ?_,
    exec_refused_unless ?_, exec_refused_unless ?_, exec_refused_unless ?_, exec_refused_unless ?_⟩ <;>
  simp [precondition, and_assoc]

/-- Settles O20, step by step: the two operands, `CSCLR`, and `CSRNG` on cleared accumulators. -/
theorem csumPseudoCommand : Obligations.CsumPseudoCommand := by
  intro s rest off len hhost hrun hrange hflen
  have hoff : off < 2 ^ (Config.aw + 1) := offset_fits_wide (by omega)
  have hlen : len < 2 ^ (Config.aw + 1) := offset_fits_wide (by omega)
  refine (run_succ_of_step (step_write_arg0 hhost hoff) 3).trans ?_
  refine (run_succ_of_step (step_write_arg1 rfl hlen) 2).trans ?_
  refine (run_succ_of_step (step_command (i := .csclr) rfl nofun rfl) 1).trans ?_
  refine (run_succ_of_step (step_command (i := .csrng) rfl nofun ?inRange) 0).trans rfl
  simp [precondition, effect, hrun, hrange]

/-- Settles O35: neither a precondition nor an effect depends on the registers varied, and the effects of `START` and `END`
do not mention the engine before them. -/
theorem storedFieldsAreNotInterpreted : Obligations.StoredFieldsAreNotInterpreted := by
  intro i s t m d epsz id flags cs hexec
  constructor
  · exact exec_comm (·.varyStored i m d epsz id flags cs) (fun env => env) hexec
      (precondition_varyStored i m d epsz id flags cs s.eng)
      (fun _ => effect_varyStored i m d epsz id flags cs s.env s.eng) (refuse_varyStored i m d epsz id flags cs s.eng)
  · rintro (rfl | rfl)
    · exact hexec
    · exact hexec

/-- Settles O42, by induction on the number of `BNEXT` allowed: a `BNEXT` that does not close the stream moves the cursor
on by 8 bytes or more inside FILE. -/
theorem streamIsFinite : Obligations.StreamIsFinite := by
  intro s k
  induction k generalizing s with
  | zero => intro _ _ _ _ hk; omega
  | succ k ih =>
    intro hrun herr hact hend hk
    rw [bnextUntilDone_of_open hrun herr hact hend]
    rcases bnextEffect_closes_or_yields s.env s.eng with ⟨hclosed, hdone⟩ | ⟨b, hyield, hinside⟩
    · exact ⟨_, bnextUntilDone_of_done hdone k, hclosed, hdone⟩
    · rw [hyield]
      refine ih _ hrun herr hact hend ?_
      simp only [yieldBlock_flen, yieldBlock_cur, blkhdrSize_eq]
      omega
end

section
/-! The control commands, the frames of the decode commands, and the life of the secrets. The parts, in order: the outcomes
of a decode command; the commands and steps that leave the secrets alone; STATUS after `START`. -/

namespace Sys2Proof.Machine

/-! ### The outcomes of a decode command (R55, R117) -/

/-- What a command that settles a verdict with the given writes can do: it is refused, it raises, or it makes the
writes. -/
inductive SettledCase {α : Type} (writes : α → Engine → Engine) (s t : State) : Prop
  | refused (ht : t = { s with eng := refuse s.eng })
  | raised (k : ErrKind) (st : ErrStruct) (off exp act : Nat) (ht : t = { s with eng := raise k st off exp act s.eng })
  | wrote (a : α) (ht : t = { s with eng := writes a s.eng })

/-- The inversion of `exec` for a command whose effect settles a verdict. -/
theorem settledCase_of_exec {α : Type} {i : Instr} {s t : State} {v : Verdict α} {writes : α → Engine → Engine}
    (h : exec i s = .next t) (heffect : effect i s.env s.eng = v.settle writes s.eng) : SettledCase writes s t := by
  cases hp : precondition i s.eng with
  | false => rw [exec_refused hp] at h; cases h; exact .refused rfl
  | true =>
    rw [exec_ready hp, heffect] at h
    cases h
    cases v with
    | fails k st off exp act => exact .raised k st off exp act rfl
    | passes a => exact .wrote a rfl

/-! ### The secrets (R144) -/

/-- `KEY`, `KEYMAT`, PIH and `PIHLEN` are the same in the two engines. -/
structure SecretsKept (e e' : Engine) : Prop where
  key : e'.key = e.key
  keymat : e'.keymat = e.keymat
  pih : e'.pih = e.pih
  pihlen : e'.pihlen = e.pihlen

section
variable {e : Engine} {i : Instr}

/-- A settled verdict keeps the secrets when the writes do. -/
theorem settle_secretsKept {α : Type} (v : Verdict α) {writes : α → Engine → Engine}
    (hw : ∀ a, SecretsKept e (writes a e)) : SecretsKept e (v.settle writes e) :=
  settle_of (P := SecretsKept e) v writes e (fun _ _ _ _ _ _ => ⟨rfl, rfl, rfl, rfl⟩) fun a _ => hw a

/-- The effect of a command other than `START`, `END` and `EOPEN` keeps the secrets. -/
theorem effect_secretsKept (env : Env) (hs : i ≠ .start) (he : i ≠ .endPass) (ho : i ≠ .eopen) :
    SecretsKept e (effect i env e) := by
  cases i with
  | start => exact absurd rfl hs
  | endPass => exact absurd rfl he
  | eopen => exact absurd rfl ho
  | nop | csclr | cspush _ | csrng => exact ⟨rfl, rfl, rfl, rfl⟩
  | pmain => rw [effect, pmainEffect_eq]; exact settle_secretsKept _ fun _ => ⟨rfl, rfl, rfl, rfl⟩
  | penc => rw [effect, pencEffect_eq]; exact settle_secretsKept _ fun _ => ⟨rfl, rfl, rfl, rfl⟩
  | pmeta => rw [effect, pmetaEffect_eq]; exact settle_secretsKept _ fun _ => ⟨rfl, rfl, rfl, rfl⟩
  | pdata => rw [effect, pdataEffect_eq]; exact settle_secretsKept _ fun _ => ⟨rfl, rfl, rfl, rfl⟩
  | binit => rw [effect, binitEffect_eq]; exact settle_secretsKept _ fun _ => ⟨rfl, rfl, rfl, rfl⟩
  | bnext =>
    rw [effect, bnextEffect_eq]
    exact settle_secretsKept _ fun found => by cases found <;> exact ⟨rfl, rfl, rfl, rfl⟩

/-- `EOPEN` leaves `KEY` alone (R88). -/
theorem eopenEffect_key (env : Env) (e : Engine) : (eopenEffect env e).key = e.key := by
  rw [eopenEffect_eq]
  exact settle_of (P := fun e' => e'.key = e.key) _ _ e (fun _ _ _ _ _ _ => rfl) fun _ _ => rfl

/-- A command other than `START` and `END`, done or refused, keeps the secrets, an `EOPEN` if the envelope is open already:
it is then refused (R59). -/
theorem command_secretsKept (env : Env) (hs : i ≠ .start) (he : i ≠ .endPass) (ho : i ≠ .eopen ∨ e.openv = true) :
    SecretsKept e (if precondition i e then effect i env e else refuse e) := by
  split
  next hp =>
    have hne : i ≠ .eopen := ho.elim id fun hopen hi => by subst hi; simp [precondition, hopen] at hp
    exact effect_secretsKept env hs he hne
  next => exact ⟨rfl, rfl, rfl, rfl⟩

/-- A command other than `START` and `END`, done or refused, keeps `KEY`. -/
theorem command_key (env : Env) (hs : i ≠ .start) (he : i ≠ .endPass) :
    (if precondition i e then effect i env e else refuse e).key = e.key := by
  by_cases ho : i = .eopen
  · subst ho
    split
    next => exact eopenEffect_key env e
    next => rfl
  · exact (command_secretsKept env hs he (.inl ho)).key

end

/-- A command other than `START`, `END` and `EOPEN` leaves every byte of FILE and of PIH. -/
theorem exec_file_pih_read {i : Instr} {s t : State} (h : exec i s = .next t) (hs : i ≠ .start) (he : i ≠ .endPass)
    (ho : i ≠ .eopen) (a : Nat) :
    t.env.file.read a = s.env.file.read a ∧ t.eng.pih.read a = s.eng.pih.read a := by
  have hpih := (command_secretsKept (e := s.eng) s.env hs he (.inl ho)).pih
  cases eq_of_exec h
  exact ⟨rfl, by rw [hpih]⟩

/-- What a step does to the secrets. -/
inductive SecretsCase (s t : State) : Prop
  | kept (h : SecretsKept s.eng t.eng)
  | zeroed (m : HostMove) (rest : List HostMove) (h : s.host = m :: rest)
      (hm : m = .reset ∨ m = .write 0 0x0001 ∨ m = .write 0 0x0002)
  | opened (rest : List HostMove) (h : s.host = .write 0 0x0022 :: rest) (hopen : s.eng.openv = false)
      (hkey : t.eng.key = s.eng.key)

/-- A step keeps the secrets, or it leaves the reset state or starts a pass, or it is the `EOPEN` of the pass (R144). -/
theorem secretsCase_of_step {s t : State} (h : step s = .next t) : SecretsCase s t := by
  cases stepCase_of_step h with
  | idle _ ht | reserved _ _ _ ht | arg0 _ _ _ _ ht | arg1 _ _ _ _ ht | ignored _ _ _ ht | drive _ _ _ _ _ _ ht
  | place _ _ _ _ ht => subst ht; exact .kept ⟨rfl, rfl, rfl, rfl⟩
  | reset rest hh _ => exact .zeroed _ rest hh (.inl rfl)
  | command rest v i hh hv hd _ ht =>
    have hw := value_of_decode hv hd
    by_cases hs : i = .start
    · subst hs; subst hw; exact .zeroed _ rest hh (.inr (.inl rfl))
    by_cases he : i = .endPass
    · subst he; subst hw; exact .zeroed _ rest hh (.inr (.inr rfl))
    subst ht
    by_cases ho : i ≠ .eopen ∨ s.eng.openv = true
    · exact .kept (command_secretsKept s.env hs he ho)
    · obtain ⟨hi, hopen⟩ := not_or.1 ho
      have hi : i = .eopen := not_not.1 hi
      subst hi; subst hw
      exact .opened rest hh (Bool.eq_false_iff.2 hopen) (command_key s.env hs he)

/-! ### STATUS after `START` (R28, R60) -/

/-- A pass begins with every flag of STATUS clear but `RUN` and `KEYV`. -/
theorem startEffect_statusFlags (env : Env) (e : Engine) :
    (startEffect env e).statusFlags = true :: env.keyPresent :: List.replicate 10 false := rfl

theorem startEffect_status (env : Env) (e : Engine) :
    (startEffect env e).status = 1#32 ||| ((BitVec.ofBool env.keyPresent).setWidth 32 <<< 1) := by
  rw [Engine.status, startEffect_statusFlags]
  cases env.keyPresent <;> decide

end Sys2Proof.Machine

open Sys2Proof Sys2Proof.Machine

/-- Settles O9: `NOP` has no precondition, and its effect is the engine it is given. -/
theorem nopRule : Obligations.NopRule :=
  ⟨decode_encode .nop, fun _ => exec_ready rfl⟩

/-- Settles O10: the state is the effect of `START`, and STATUS is the number of its flags. -/
theorem startRule : Obligations.StartRule :=
  ⟨decode_encode .start, fun s => ⟨_, exec_ready rfl, rfl, startEffect_status s.env s.eng⟩⟩

/-- Settles O11: `END` has no precondition, and its effect is the reset engine whatever engine it is given. -/
theorem endRule : Obligations.EndRule :=
  ⟨decode_encode .endPass, fun _ => exec_ready rfl, exec_ready rfl⟩

/-- Settles O47, command by command: a refusal writes `ILL`, the error entry its registers, and a success the command's
own. -/
theorem frameOfTheParsers : Obligations.FrameOfTheParsers := by
  intro s t failed
  refine ⟨fun h => ?_, fun h => ?_, fun h => ?_, fun h => ?_, fun h => ?_, ?_⟩
  · cases settledCase_of_exec h (pmainEffect_eq s.env s.eng) with
    | refused ht | raised _ _ _ _ _ ht | wrote _ ht => subst ht; rfl
  · cases settledCase_of_exec h (pencEffect_eq s.env s.eng) with
    | refused ht | raised _ _ _ _ _ ht | wrote _ ht => subst ht; rfl
  · cases settledCase_of_exec h (eopenEffect_eq s.env s.eng) with
    | refused ht | raised _ _ _ _ _ ht | wrote _ ht => subst ht; rfl
  · cases settledCase_of_exec h (pmetaEffect_eq s.env s.eng) with
    | refused ht | raised _ _ _ _ _ ht | wrote _ ht => subst ht; rfl
  · cases settledCase_of_exec h (pdataEffect_eq s.env s.eng) with
    | refused ht | raised _ _ _ _ _ ht | wrote _ ht => subst ht; rfl
  · rintro (h | h | h | h) <;> exact exec_file_pih_read h nofun nofun nofun

/-- Settles O48: as for the parsers, where a `BNEXT` that does not raise writes the clean end or the block. -/
theorem frameOfTheStreamCommands : Obligations.FrameOfTheStreamCommands := by
  rintro i s t (rfl | rfl) h
  · refine ⟨?_, exec_file_pih_read h nofun nofun nofun⟩
    cases settledCase_of_exec h (binitEffect_eq s.env s.eng) with
    | refused ht | raised _ _ _ _ _ ht | wrote _ ht => subst ht; rfl
  · refine ⟨?_, exec_file_pih_read h nofun nofun nofun⟩
    cases settledCase_of_exec h (bnextEffect_eq s.env s.eng) with
    | refused ht | raised _ _ _ _ _ ht => subst ht; rfl
    | wrote found ht => subst ht; cases found <;> rfl

/-- Settles O54: `START`, `END` and reset leave the reset values, and by the cases of a command and of a step nothing but
these and the `EOPEN` of the pass writes a secret. -/
theorem secretsLastForThePass : Obligations.SecretsLastForThePass := by
  refine ⟨fun s => ?_, fun s => ?_, fun i s t hs he h => ?_, fun s rest h => ?_, fun s t h => ?_⟩
  · exact ⟨_, exec_ready rfl, rfl, fun _ => rfl, rfl, fun hk => if_neg (Bool.eq_false_iff.1 hk)⟩
  · exact ⟨_, exec_ready rfl, rfl, fun _ => rfl, rfl, rfl⟩
  · cases eq_of_exec h
    refine ⟨command_key s.env hs he, fun ho => ?_⟩
    obtain ⟨-, hkeymat, hpih, hpihlen⟩ := command_secretsKept (e := s.eng) s.env hs he ho
    exact ⟨hkeymat, hpih, hpihlen⟩
  · exact ⟨_, step_of_host h, rfl, fun _ => rfl, rfl, rfl⟩
  · cases secretsCase_of_step h with
    | kept hkept =>
      obtain ⟨hkey, hkeymat, hpih, hpihlen⟩ := hkept
      exact ⟨fun hne => absurd hkey hne, fun hne => by simp [hkeymat, hpih, hpihlen] at hne⟩
    | zeroed m rest hh hm =>
      exact ⟨fun _ => ⟨m, rest, hh, hm⟩, fun _ => ⟨m, rest, hh, hm.imp_right (.imp_right .inl)⟩⟩
    | opened rest hh hopen hkey =>
      exact ⟨fun hne => absurd hkey hne, fun _ => ⟨_, rest, hh, .inr (.inr (.inr ⟨rfl, hopen⟩))⟩⟩

/-- Settles O59: each flag of `PassOK` is read through the clause of the invariant it stands in. -/
theorem passOkMeansWalkedToTheEnd : Obligations.PassOkMeansWalkedToTheEnd := by
  intro e h hok
  simp only [Engine.passOk, Bool.and_eq_true, Bool.or_eq_true, Bool.not_eq_true'] at hok
  obtain ⟨⟨⟨⟨⟨⟨-, herr⟩, -⟩, hmain⟩, -⟩, hend⟩, hkeyed⟩ := hok
  obtain ⟨hmagic, -⟩ := h.stages.main hmain
  obtain ⟨-, -, hcur, hstart⟩ := h.stream.ended hend
  refine ⟨hmagic, hcur ▸ hstart, hcur, congrArg ErrRecord.kind (h.errors.noError herr), fun hkey => ?_⟩
  obtain ⟨⟨hopen, -⟩, hdata⟩ := hkeyed.resolve_left (by simp [hkey])
  obtain ⟨-, -, -, hlen⟩ := h.stages.opened hopen
  exact ⟨hlen, (h.stages.data hdata).2⟩
end

section
/-! The checksum unit (41_checksum.md). The parts, in order: the rotation and the step of R65 in any width, with the two
widths of the engine as instances; what a fold keeps of its step; the two accumulators; the bytes and the word of the
checksum commands. -/

namespace Sys2Proof.Machine

/-! ### The step in any width (R65) -/

section
variable {w : Nat}

/-- `rotrW` of R65 in `W = w + 1` bits. -/
def rotateW (c : BitVec (w + 1)) : BitVec (w + 1) := (c >>> 1) ||| ((c &&& 1#(w + 1)) <<< w)

/-- `stepW` of R65 in `W = w + 1` bits. -/
def stepW (c : BitVec (w + 1)) (b : Byte) : BitVec (w + 1) := rotateW c + b.setWidth (w + 1)

/-- The engine's narrow step is the step in 8 bits. -/
theorem step8_eq_stepW : step8 = stepW (w := 7) := by
  funext c b
  rw [stepW, BitVec.setWidth_eq]
  rfl

/-- The engine's wide step is the step in 16 bits. -/
theorem step16_eq_stepW : step16 = stepW (w := 15) := rfl

/-- The rotation as R65 writes it, on natural numbers: no bit of it is at or above the width. -/
theorem toNat_rotateW (c : BitVec (w + 1)) :
    (rotateW c).toNat = c.toNat >>> 1 ||| (c.toNat &&& 1) <<< w := by
  have hlow : (c.toNat &&& 1) <<< w < 2 ^ (w + 1) := by
    rw [Nat.and_one_is_mod, Nat.shiftLeft_eq, Nat.pow_succ']
    exact Nat.mul_lt_mul_of_pos_right (Nat.mod_lt _ Nat.two_pos) (Nat.two_pow_pos w)
  rw [rotateW, BitVec.toNat_or, BitVec.toNat_ushiftRight, BitVec.toNat_shiftLeft, BitVec.toNat_and, BitVec.toNat_one,
    Nat.mod_eq_of_lt hlow]
  exact Nat.succ_pos w

/-- The rotation moves the lowest bit to the top and the bits above it down by one. -/
theorem rotateW_parts (c : BitVec (w + 1)) :
    (rotateW c).toNat / 2 ^ w = c.toNat % 2 ∧ (rotateW c).toNat % 2 ^ w = c.toNat / 2 := by
  have hhigh : c.toNat / 2 < 2 ^ w := by omega
  have hsum : (rotateW c).toNat = 2 ^ w * (c.toNat % 2) + c.toNat / 2 := by
    rw [toNat_rotateW, Nat.two_pow_add_eq_or_of_lt hhigh, Nat.or_comm, Nat.shiftLeft_eq, Nat.mul_comm,
      Nat.and_one_is_mod, Nat.shiftRight_one]
  rw [hsum, Nat.mul_add_div (Nat.two_pow_pos w), Nat.div_eq_of_lt hhigh, Nat.mul_add_mod, Nat.mod_eq_of_lt hhigh]
  exact ⟨rfl, rfl⟩

/-- The two parts give the word back, so no two words rotate to one. -/
theorem rotateW_injective : Function.Injective (rotateW (w := w)) := by
  intro c d h
  obtain ⟨hclow, hchigh⟩ := rotateW_parts c
  obtain ⟨hdlow, hdhigh⟩ := rotateW_parts d
  rw [h] at hclow hchigh
  apply BitVec.eq_of_toNat_eq
  omega

/-- A byte fits a word of 8 bits or more. -/
theorem toNat_setWidth_byte (hw : 7 ≤ w) (b : Byte) : (b.setWidth (w + 1)).toNat = b.toNat :=
  BitVec.toNat_setWidth_of_le (by omega)

/-- The step as R65 writes it, on natural numbers. -/
theorem toNat_stepW (hw : 7 ≤ w) (c : BitVec (w + 1)) (b : Byte) :
    (stepW c b).toNat = ((c.toNat >>> 1 ||| (c.toNat &&& 1) <<< w) + b.toNat) % 2 ^ (w + 1) := by
  rw [stepW, BitVec.toNat_add, toNat_rotateW, toNat_setWidth_byte hw]

/-- Each step is a bijection of the accumulator (R71): a rotation and then a translation. -/
theorem stepW_bijective (b : Byte) : Function.Bijective fun c : BitVec (w + 1) => stepW c b :=
  Finite.injective_iff_bijective.1 fun _ _ h => rotateW_injective (add_right_cancel h)

/-- Each step is injective in the byte (R71). -/
theorem stepW_injective_byte (hw : 7 ≤ w) (c : BitVec (w + 1)) : Function.Injective (stepW c) := by
  intro a b h
  have hbyte := congrArg BitVec.toNat (add_left_cancel h)
  rw [toNat_setWidth_byte hw, toNat_setWidth_byte hw] at hbyte
  exact BitVec.eq_of_toNat_eq hbyte

/-- A zero byte leaves a zero accumulator (R72). -/
theorem stepW_zero : stepW 0#(w + 1) 0#8 = 0#(w + 1) := by
  simp [stepW, rotateW]

end

/-! ### What a fold keeps of its step (R66) -/

section
variable {α β : Type} {f : α → β → α}

/-- A fold of steps each injective in the accumulator is injective in the accumulator. -/
theorem foldl_injective (hf : ∀ b, Function.Injective fun a => f a b) (t : List β) :
    Function.Injective fun a => t.foldl f a := by
  induction t with
  | nil => exact Function.injective_id
  | cons b t ih => exact ih.comp (hf b)

/-- Folds over two sequences that differ in one element differ. -/
theorem foldl_append_cons_ne (hacc : ∀ b, Function.Injective fun a => f a b) (helem : ∀ a, Function.Injective (f a))
    {a b : β} (hab : a ≠ b) (c : α) (s t : List β) : (s ++ a :: t).foldl f c ≠ (s ++ b :: t).foldl f c := by
  rw [List.foldl_append, List.foldl_append]
  exact (foldl_injective hacc t).ne ((helem _).ne hab)

/-- An element that leaves the accumulator leaves it any number of times. -/
theorem foldl_replicate_of_fixed {a : α} {b : β} (h : f a b = a) (n : Nat) :
    (List.replicate n b).foldl f a = a := by
  induction n with
  | zero => rfl
  | succ n ih => rw [List.replicate_succ, List.foldl_cons, h, ih]

/-- Two sequences with one value, and not so once behind a third: the value of a whole is no function of those of its
parts. -/
theorem not_exists_append_eq {g : List β → α} {s t t' : List β} (heq : g t = g t') (hne : g (s ++ t) ≠ g (s ++ t')) :
    ¬∃ h : α → α → α, ∀ s t, g (s ++ t) = h (g s) (g t) := by
  rintro ⟨h, hg⟩
  exact hne (by rw [hg, hg, heq])

end

/-! ### The two accumulators (R71, R72) -/

theorem step8_bijective (b : Byte) : Function.Bijective fun c : Byte => step8 c b :=
  step8_eq_stepW ▸ stepW_bijective b

theorem step16_bijective (b : Byte) : Function.Bijective fun c : Half => step16 c b :=
  step16_eq_stepW ▸ stepW_bijective b

theorem step8_injective_byte (c : Byte) : Function.Injective (step8 c) :=
  step8_eq_stepW ▸ stepW_injective_byte (w := 7) (by decide) c

theorem step16_injective_byte (c : Half) : Function.Injective (step16 c) :=
  step16_eq_stepW ▸ stepW_injective_byte (w := 15) (by decide) c

theorem csum8_replicate_zero (n : Nat) : csum8 (List.replicate n 0#8) = 0#8 :=
  foldl_replicate_of_fixed (step8_eq_stepW ▸ stepW_zero) n

theorem csum16_replicate_zero (n : Nat) : csum16 (List.replicate n 0#8) = 0#16 :=
  foldl_replicate_of_fixed (step16_eq_stepW ▸ stepW_zero) n

theorem fold8_append (c : Byte) (s t : List Byte) : fold8 c (s ++ t) = fold8 (fold8 c s) t := List.foldl_append

theorem fold16_append (c : Half) (s t : List Byte) : fold16 c (s ++ t) = fold16 (fold16 c s) t := List.foldl_append

/-! ### The bytes and the word of a checksum command (R31, R51) -/

/-- A read is the bytes at rising offsets (R31). -/
theorem bytes_eq_map_range (m : Memory) (off n : Nat) :
    m.bytes off n = (List.range n).map fun k => m.read (off + k) := by
  induction n with
  | zero => rfl
  | succ n ih => rw [bytes_add, ih, List.range_succ, List.map_append]; rfl

/-- The word of a command as a number: the immediate above the opcode (R51). -/
theorem encode_eq_ofNat (i : Instr) :
    encode i = BitVec.ofNat 16 ((immediate i).toNat <<< 8 ||| (opcode i).toNat) := by
  rw [← BitVec.toNat_append, BitVec.ofNat_toNat]
  exact (BitVec.setWidth_eq _).symm

/-- `CSRNG` is ready in a pass whose range lies inside FILE (R59). -/
theorem precondition_csrng_iff (e : Engine) :
    precondition .csrng e = true ↔ e.run = true ∧ e.arg0 + e.arg1 ≤ e.flen := by
  simp [precondition]

end Sys2Proof.Machine

open Sys2Proof Sys2Proof.Machine

/-- Settles O14: `CSCLR` has no precondition, and its effect is the two writes. -/
theorem csclrRule : Obligations.CsclrRule :=
  ⟨decode_encode .csclr, fun _ => exec_ready rfl⟩

/-- Settles O15: `CSPUSH` has no precondition, and its effect is one step of each accumulator. -/
theorem cspushRule : Obligations.CspushRule := by
  refine ⟨fun imm8 => ?_, fun imm8 s => ⟨step8 s.eng.acc8 imm8, step16 s.eng.acc16 imm8, exec_ready rfl, ?_, ?_⟩⟩
  · exact encode_eq_ofNat (.cspush imm8) ▸ decode_encode (.cspush imm8)
  · exact step8_eq_stepW ▸ toNat_stepW (w := 7) (by decide) s.eng.acc8 imm8
  · exact step16_eq_stepW ▸ toNat_stepW (w := 15) (by decide) s.eng.acc16 imm8

/-- Settles O16: the bytes of the range, folded from the accumulators as they stand. -/
theorem csrngRule : Obligations.CsrngRule := by
  refine ⟨decode_encode .csrng, fun s => ⟨exec_refused_unless (precondition_csrng_iff s.eng).1, fun hrun hrange => ?_⟩⟩
  rw [exec_ready ((precondition_csrng_iff s.eng).2 ⟨hrun, hrange⟩)]
  simp only [effect, absorb, Env.fileBytes, fold8, fold16, bytes_eq_map_range, List.foldl_map]

/-- Settles O17: a fold splits at an append; the empty sequence and one zero byte have one checksum, and not so behind the
byte 1. -/
theorem checksumInPieces : Obligations.ChecksumInPieces :=
  ⟨fold8_append, fold16_append, not_exists_append_eq (s := [1#8]) (t := []) (t' := [0#8]) rfl (by decide),
    not_exists_append_eq (s := [1#8]) (t := []) (t' := [0#8]) rfl (by decide)⟩

/-- Settles O18: the step at the changed byte separates the accumulators, and every step after it keeps them apart. -/
theorem oneChangedByteIsAlwaysDetected : Obligations.OneChangedByteIsAlwaysDetected :=
  ⟨step8_bijective, step16_bijective, step8_injective_byte, step16_injective_byte,
    fun s t _ _ hab =>
      ⟨foldl_append_cons_ne (fun b => (step8_bijective b).injective) step8_injective_byte hab _ s t,
        foldl_append_cons_ne (fun b => (step16_bijective b).injective) step16_injective_byte hab _ s t⟩,
    by decide, by decide⟩

/-- Settles O19: zero bytes leave the zero accumulator the sequence behind them starts from. -/
theorem leadingZerosAreNotDetected : Obligations.LeadingZerosAreNotDetected := by
  intro n s
  have h8 : csum8 (List.replicate n 0#8) = 0#8 := csum8_replicate_zero n
  have h16 : csum16 (List.replicate n 0#8) = 0#16 := csum16_replicate_zero n
  refine ⟨?_, ?_, h8, h16⟩
  · exact (fold8_append _ _ _).trans (congrArg (fold8 · s) h8)
  · exact (fold16_append _ _ _).trans (congrArg (fold16 · s) h16)
end

section
/-! The container header parser (42_container_header.md). The parts, in order: the command that settles a verdict once its
precondition holds; the readiness and the four verdicts of `PMAIN`; a read of eleven bytes and a last one. -/

namespace Sys2Proof.Machine

/-! ### A ready command that settles a verdict (R58) -/

/-- A ready command whose effect settles a verdict makes the writes of that verdict and no other (R58). -/
theorem exec_settle {α : Type} {i : Instr} {s : State} {v w : Verdict α} {writes : α → Engine → Engine}
    (hready : precondition i s.eng = true) (heffect : effect i s.env s.eng = v.settle writes s.eng) (hv : v = w) :
    exec i s = .next { s with eng := w.settle writes s.eng } := by
  rw [exec_ready hready, heffect, hv]

/-! ### `PMAIN` (R59, R75) -/

/-- `PMAIN` is ready in a pass with no error and no MainHeader yet (R59). -/
theorem precondition_pmain_iff (e : Engine) :
    precondition .pmain e = true ↔ e.run = true ∧ e.errf = false ∧ e.mainv = false := by
  simp [precondition, and_assoc]

section
variable {flen : Nat} {file : Memory}

theorem pmainVerdict_truncated (hlen : flen < 12) :
    pmainVerdict flen file = .fails .truncatedInput .main 0 12 flen :=
  if_pos hlen

theorem pmainVerdict_badMagic (hlen : 12 ≤ flen) (hmagic : le32 (file.bytes 0 4) ≠ Config.magic) :
    pmainVerdict flen file = .fails .badMagic .main 0 Config.magic.toNat (le32 (file.bytes 0 4)).toNat := by
  rw [pmainVerdict, if_neg (Nat.not_lt.2 hlen), if_pos hmagic]

theorem pmainVerdict_checksumMismatch (hlen : 12 ≤ flen) (hmagic : le32 (file.bytes 0 4) = Config.magic)
    (hcs : csum8 (file.bytes 0 11) ≠ file.read 11) :
    pmainVerdict flen file =
      .fails .checksumMismatch .main 11 (csum8 (file.bytes 0 11)).toNat (file.read 11).toNat := by
  rw [pmainVerdict, if_neg (Nat.not_lt.2 hlen), if_neg (not_not.2 hmagic), if_pos hcs]

theorem pmainVerdict_passes (hlen : 12 ≤ flen) (hmagic : le32 (file.bytes 0 4) = Config.magic)
    (hcs : csum8 (file.bytes 0 11) = file.read 11) :
    pmainVerdict flen file =
      .passes { magic := le32 (file.bytes 0 4), paysz := le32 (file.bytes 4 4), fhsz := le16 (file.bytes 8 2)
                flags := file.read 10, cs := file.read 11 } := by
  rw [pmainVerdict, if_neg (Nat.not_lt.2 hlen), if_neg (not_not.2 hmagic), if_neg (not_not.2 hcs), parseMain_bytes]

end

/-! ### A record and its checksum byte (R31, R76) -/

/-- A read that ends in a given byte is a shorter read and the byte behind it (R31). -/
theorem bytes_succ_eq_append_iff {m : Memory} {off n : Nat} {s : List Byte} {c : Byte} :
    m.bytes off (n + 1) = s ++ [c] ↔ m.bytes off n = s ∧ m.read (off + n) = c := by
  rw [bytes_add, Memory.bytes, Memory.bytes, ← List.concat_eq_append, ← List.concat_eq_append, List.concat_inj]

end Sys2Proof.Machine

open Sys2Proof Sys2Proof.Machine

/-- Settles O24: each clause is one verdict of `PMAIN`, settled. -/
theorem pmainRule : Obligations.PmainRule := by
  refine ⟨decode_encode .pmain, fun s =>
    ⟨exec_refused_unless (precondition_pmain_iff s.eng).1, fun hrun herr hmain => ?_⟩⟩
  have hready := (precondition_pmain_iff s.eng).2 ⟨hrun, herr, hmain⟩
  have heffect := pmainEffect_eq s.env s.eng
  exact ⟨fun hlen => exec_settle hready heffect (pmainVerdict_truncated hlen),
    fun hlen hmagic => exec_settle hready heffect (pmainVerdict_badMagic hlen hmagic),
    fun hlen hmagic hcs => exec_settle hready heffect (pmainVerdict_checksumMismatch hlen hmagic hcs),
    fun hlen hmagic hcs => exec_settle hready heffect (pmainVerdict_passes hlen hmagic hcs)⟩

/-- Settles O25: the eleven bytes and their checksum are what `PMAIN` reads, so the last clause of its rule applies, and the
fields it writes are slices of them. -/
theorem pmainRoundTrips : Obligations.PmainRoundTrips := by
  refine ⟨mainSize_eq, fun s m hrun herr hmain hflen _ hmagic hfile => ?_⟩
  obtain ⟨rfl, hcs⟩ := bytes_succ_eq_append_iff.1 hfile
  have hmagic4 : le32 (s.env.file.bytes 0 4) = Config.magic := by
    rw [take_bytes] at hmagic
    exact (congrArg le32 hmagic).trans (by decide)
  obtain ⟨-, -, -, hpass⟩ := (pmainRule.2 s).2 hrun herr hmain
  exact ⟨_, hpass hflen hmagic4 hcs.symm, by simp [slice_bytes, byteAt_bytes, herr, hcs]⟩
end

section
/-! The encryption envelope (43_envelope.md). The parts, in order: slices of a byte sequence and arrays of a read; the
readiness and the three verdicts of `PENC`; the readiness, the verdicts and the writes of `EOPEN`; the pass without a
key. -/

namespace Sys2Proof.Machine

/-! ### Slices and byte arrays (R31, R34) -/

/-- Byte `i` of a slice is the byte `i` behind its beginning. -/
theorem byteAt_slice (s : List Byte) {a b i : Nat} (h : i < b - a) : byteAt (slice s a b) i = byteAt s (a + i) := by
  simp [byteAt, slice, h]

/-- A slice up to the end of the sequence is all that follows its beginning, so beyond it both sides are 0. -/
theorem byteAt_slice_length (s : List Byte) (a i : Nat) : byteAt (slice s a s.length) i = byteAt s (a + i) := by
  have hslice : slice s a s.length = s.drop a := List.take_of_length_le (by simp)
  simp [byteAt, hslice]

/-- The array of a read holds the bytes from its offset on (R31, R34). -/
theorem byteArray_bytes (n : Nat) (m : Memory) (off : Nat) :
    byteArray n (m.bytes off n) = Vector.ofFn fun i => m.read (off + i.val) :=
  congrArg Vector.ofFn (funext fun i => byteAt_bytes m n off i.val i.isLt)

/-- The array of a slice of its own length holds the bytes from the slice's beginning on (R34). -/
theorem byteArray_slice (n : Nat) (s : List Byte) :
    byteArray n (slice s 0 n) = Vector.ofFn fun i => byteAt s i.val :=
  congrArg Vector.ofFn (funext fun i => by simpa using byteAt_slice s (a := 0) (b := n) i.isLt)

/-! ### `PENC` (R59, R80) -/

/-- `PENC` is ready in a pass with no error, with a MainHeader and with no EncryptionHeader yet (R59). -/
theorem precondition_penc_iff (e : Engine) :
    precondition .penc e = true ↔ e.run = true ∧ e.errf = false ∧ e.mainv = true ∧ e.encv = false := by
  simp [precondition, and_assoc]

section
variable {flen : Nat} {file : Memory}

theorem pencVerdict_truncated (hlen : flen - 12 < 30) :
    pencVerdict flen file = .fails .truncatedInput .enc 12 30 (flen - 12) :=
  if_pos hlen

theorem pencVerdict_checksumMismatch (hlen : 30 ≤ flen - 12) (hcs : csum8 (file.bytes 12 29) ≠ file.read 41) :
    pencVerdict flen file =
      .fails .checksumMismatch .enc 41 (csum8 (file.bytes 12 29)).toNat (file.read 41).toNat := by
  rw [pencVerdict, if_neg (Nat.not_lt.2 hlen), if_pos hcs]

theorem pencVerdict_passes (hlen : 30 ≤ flen - 12) (hcs : csum8 (file.bytes 12 29) = file.read 41) :
    pencVerdict flen file =
      .passes { nonce := Vector.ofFn fun i => file.read (12 + i.val), epsz := le16 (file.bytes 36 2)
                ehsz := le16 (file.bytes 38 2), flags := file.read 40, cs := file.read 41 } := by
  rw [pencVerdict, if_neg (Nat.not_lt.2 hlen), if_neg (not_not.2 hcs), parseEnc_bytes]

end

/-! ### `EOPEN` (R59, R82 to R88) -/

/-- `EOPEN` is ready in a pass with no error, with an EncryptionHeader and a key, and with the envelope not open yet
(R59). -/
theorem precondition_eopen_iff (e : Engine) :
    precondition .eopen e = true ↔
      e.run = true ∧ e.errf = false ∧ e.encv = true ∧ e.keyv = true ∧ e.openv = false := by
  simp [precondition, and_assoc]

/-- The tag is the 16 bytes behind the ciphertext (R82). -/
theorem envelopeTag_eq (env : Env) (e : Engine) :
    envelopeTag env e = Vector.ofFn fun i => env.file.read (42 + e.encH.ehsz.toNat + i.val) := by
  simp only [envelopeTag, Env.fileBytes, aadSize_eq, tagSize_eq, ehs_eq]
  exact byteArray_bytes 16 env.file _

section
variable {flen ehs : Nat} {tag : Vector Byte 16} {reply : AeadReply} {p : List Byte}

theorem eopenVerdict_authFailure (hblob : ehs + 16 ≤ flen - 42) (hreply : reply = .authFailure) :
    eopenVerdict flen ehs tag reply = .fails .decryptionFailed .blob 42 0 0 := by
  subst hreply
  rw [eopenVerdict, if_neg (Nat.not_lt.2 hblob)]

theorem eopenVerdict_wrongLength (hblob : ehs + 16 ≤ flen - 42) (hreply : reply = .plaintext p)
    (hlen : p.length ≠ ehs) :
    eopenVerdict flen ehs tag reply = .fails .decryptionFailed .blob 42 ehs (p.length % 2 ^ 32) := by
  subst hreply
  rw [eopenVerdict, if_neg (Nat.not_lt.2 hblob)]
  exact if_pos hlen

theorem eopenVerdict_tooShort (hblob : ehs + 16 ≤ flen - 42) (hreply : reply = .plaintext p) (hlen : p.length = ehs)
    (hshort : ehs < 32) : eopenVerdict flen ehs tag reply = .fails .truncatedInput .inner 0 32 ehs := by
  subst hreply
  rw [eopenVerdict, if_neg (Nat.not_lt.2 hblob)]
  exact (if_neg (not_not.2 hlen)).trans (if_pos hshort)

theorem eopenVerdict_passes (hblob : ehs + 16 ≤ flen - 42) (hreply : reply = .plaintext p) (hlen : p.length = ehs)
    (hlong : 32 ≤ ehs) : eopenVerdict flen ehs tag reply = .passes (tag, p) := by
  subst hreply
  rw [eopenVerdict, if_neg (Nat.not_lt.2 hblob)]
  exact (if_neg (not_not.2 hlen)).trans (if_neg (Nat.not_lt.2 hlong))

/-- `EOPEN` passes with nothing but the plaintext the primitive replies (R87, R88). -/
theorem reply_of_eopenVerdict_passes {opened : Vector Byte 16 × List Byte}
    (h : eopenVerdict flen ehs tag reply = .passes opened) : reply = .plaintext opened.2 := by
  unfold eopenVerdict at h
  split at h
  · cases h
  cases reply with
  | authFailure => cases h
  | plaintext p =>
    dsimp only at h
    split_ifs at h
    cases h
    rfl

end

/-- The writes of an `EOPEN` that succeeds with that tag and plaintext (R88). -/
def openEnvelope (opened : Vector Byte 16 × List Byte) (e : Engine) : Engine :=
  { e with
    envTag := opened.1
    keymat := byteArray 32 (slice opened.2 0 32)
    pih := Memory.ofBytes 0 (slice opened.2 32 e.ehs)
    pihlen := BitVec.ofNat 16 (e.ehs - 32)
    openv := true }

theorem eopenEffect_settles (env : Env) (e : Engine) :
    eopenEffect env e =
      (eopenVerdict e.flen e.ehs (envelopeTag env e) (env.aeadOpen (envelopeRequest env e))).settle openEnvelope e :=
  eopenEffect_eq env e

/-- An `EOPEN` that opens the envelope splits the plaintext the primitive replied (R88). -/
theorem exists_plaintext_of_opens {s t : State} (h : exec .eopen s = .next t) (hs : s.eng.openv = false)
    (ht : t.eng.openv = true) :
    ∃ tag p, s.env.aeadOpen (envelopeRequest s.env s.eng) = .plaintext p ∧ t.eng = openEnvelope (tag, p) s.eng := by
  cases hp : precondition .eopen s.eng with
  | false => rw [exec_refused hp] at h; cases h; exact absurd (hs.symm.trans ht) nofun
  | true =>
    rw [exec_ready hp, effect, eopenEffect_settles] at h
    cases h
    cases hv : eopenVerdict s.eng.flen s.eng.ehs (envelopeTag s.env s.eng)
        (s.env.aeadOpen (envelopeRequest s.env s.eng)) with
    | fails k st off exp act => rw [hv] at ht; exact absurd (hs.symm.trans ht) nofun
    | passes opened => exact ⟨opened.1, opened.2, reply_of_eopenVerdict_passes hv, rfl⟩

/-! ### The pass without a key (R84, R100) -/

/-- Neither `KEY` nor `KEYV` is part of the precondition of a command that a keyless pass shares with a keyed one
(R59, R84). -/
theorem precondition_keyless {i : Instr} (hi : i = .pmain ∨ i = .penc ∨ i = .binit ∨ i = .bnext) (e : Engine) :
    precondition i e.keyless = precondition i e := by
  rcases hi with rfl | rfl | rfl | rfl <;> rfl

/-- Settling a verdict commutes with taking the key away when the writes do. -/
theorem settle_keyless {α : Type} (v : Verdict α) {writes : α → Engine → Engine} {e : Engine}
    (hw : ∀ a, writes a e.keyless = (writes a e).keyless) : v.settle writes e.keyless = (v.settle writes e).keyless :=
  settle_comm v writes Engine.keyless e (fun _ _ _ _ _ => rfl) hw

/-- A shared command neither reads nor writes `KEY` and `KEYV` (R84). -/
theorem effect_keyless {i : Instr} (hi : i = .pmain ∨ i = .penc ∨ i = .binit ∨ i = .bnext) (env : Env) (e : Engine) :
    effect i env e.keyless = (effect i env e).keyless := by
  rcases hi with rfl | rfl | rfl | rfl
  · simp only [effect, pmainEffect_eq]; exact settle_keyless _ fun _ => rfl
  · simp only [effect, pencEffect_eq]; exact settle_keyless _ fun _ => rfl
  · simp only [effect, binitEffect_eq]; exact settle_keyless _ fun _ => rfl
  · simp only [effect, bnextEffect_eq]; exact settle_keyless _ fun found => by cases found <;> rfl

section
variable {e : Engine}

/-- In a pass without a key nothing that needs the envelope open has happened (R84). -/
theorem flags_clear_of_keyless (h : e.Inv) (hk : e.keyv = false) :
    e.openv = false ∧ e.metav = false ∧ e.datav = false := by
  have hopen : e.openv = false :=
    Bool.eq_false_iff.2 fun ho => Bool.eq_false_iff.1 hk (h.stages.opened ho).2.1
  have hmeta : e.metav = false :=
    Bool.eq_false_iff.2 fun hm => Bool.eq_false_iff.1 hopen (h.stages.metaHdr hm).1
  exact ⟨hopen, hmeta, datav_false_of_metav_false h hmeta⟩

/-- A ready command of a pass without a key, other than `CSRNG`, has the same effect on two files that agree outside the
EncryptedBlob: the header parsers read before it, and `BNEXT` from the cursor on, which the invariant puts behind it
(R84, R100). -/
theorem effect_congr_outside_blob {i : Instr} {env : Env} {file : Memory} (h : e.Inv) (hk : e.keyv = false)
    (hi : i ≠ .csrng) (hp : precondition i e = true)
    (hread : ∀ a, a < 42 ∨ 58 + e.encH.ehsz.toNat ≤ a → file.read a = env.file.read a) :
    effect i { env with file := file } e = effect i env e := by
  cases i with
  | nop | start | endPass | csclr | cspush _ | pmeta | pdata | binit => rfl
  | csrng => exact absurd rfl hi
  | eopen => simp [precondition, hk] at hp
  | pmain =>
    rw [effect, effect, pmainEffect_eq, pmainEffect_eq,
      pmainVerdict_congr fun a ha _ => hread a (.inl (by omega))]
  | penc =>
    rw [effect, effect, pencEffect_eq, pencEffect_eq, pencVerdict_congr fun a _ ha _ => hread a (.inl ha)]
  | bnext =>
    obtain ⟨-, hact⟩ : (e.run = true ∧ e.errf = false) ∧ e.bact = true := by simpa [precondition] using hp
    obtain ⟨-, -, hcur⟩ := h.stream.opened hact
    rw [effect, effect, bnextEffect_eq, bnextEffect_eq,
      bnextVerdict_congr fun a ha _ _ => hread a (.inr (hcur.trans ha))]

end

end Sys2Proof.Machine

open Sys2Proof Sys2Proof.Machine

/-- Settles O27: each element of the request is a read of FILE, or a register, and the tag is the array of its read. -/
theorem requestIsFramedFromTheFile : Obligations.RequestIsFramedFromTheFile := by
  intro env e
  rw [envelopeRequest, envelopeTag_eq, envelopeCt, envelopeAad, aadSize_eq, ehs_eq]
  rfl

/-- Settles O26: each clause is one verdict of `PENC`, settled. -/
theorem pencRule : Obligations.PencRule := by
  refine ⟨decode_encode .penc, fun s =>
    ⟨exec_refused_unless (precondition_penc_iff s.eng).1, fun hrun herr hmain henc _ => ?_⟩⟩
  have hready := (precondition_penc_iff s.eng).2 ⟨hrun, herr, hmain, henc⟩
  have heffect := pencEffect_eq s.env s.eng
  exact ⟨fun hlen => exec_settle hready heffect (pencVerdict_truncated hlen),
    fun hlen hcs => exec_settle hready heffect (pencVerdict_checksumMismatch hlen hcs),
    fun hlen hcs => exec_settle hready heffect (pencVerdict_passes hlen hcs)⟩

/-- Settles O28: each clause is one verdict of `EOPEN`, settled; PIH is the memory of the plaintext behind the key
material. -/
theorem eopenRule : Obligations.EopenRule := by
  refine ⟨decode_encode .eopen, fun s =>
    ⟨exec_refused_unless (precondition_eopen_iff s.eng).1, fun hrun herr henc hkey hopen _ => ?_⟩⟩
  have hready := (precondition_eopen_iff s.eng).2 ⟨hrun, herr, henc, hkey, hopen⟩
  have heffect := eopenEffect_settles s.env s.eng
  refine ⟨fun hblob => exec_settle hready heffect (eopenVerdict_truncated _ _ hblob),
    fun hblob hreply => exec_settle hready heffect (eopenVerdict_authFailure hblob hreply),
    fun p hblob hreply hlen => exec_settle hready heffect (eopenVerdict_wrongLength hblob hreply hlen),
    fun p hblob hreply hlen hshort => exec_settle hready heffect (eopenVerdict_tooShort hblob hreply hlen hshort),
    fun p hblob hreply hlen hlong => ⟨Memory.ofBytes 0 (slice p 32 p.length), ?_, fun i => ?_⟩⟩
  · rw [exec_settle hready heffect (eopenVerdict_passes hblob hreply hlen hlong), Verdict.settle, openEnvelope,
      byteArray_slice, envelopeTag_eq, hlen]
    rfl
  · rw [read_ofBytes, if_pos (Nat.zero_le i)]
    exact byteAt_slice_length p 32 i

/-- Settles O29: refused or raising, `EOPEN` writes none of the four registers, and while the envelope is not open the
invariant has them zero. -/
theorem failedEopenReturnsNoPlaintext : Obligations.FailedEopenReturnsNoPlaintext := by
  intro s t h hopen
  cases settledCase_of_exec h (eopenEffect_settles s.env s.eng) with
  | refused ht | raised _ _ _ _ _ ht =>
    subst ht
    refine ⟨rfl, rfl, rfl, rfl, fun hinv => ?_⟩
    obtain ⟨-, hkeymat, hpih, hpihlen⟩ := hinv.stages.noOpen hopen
    exact ⟨hkeymat, hpihlen, fun a => congrArg (Memory.read · a) hpih⟩
  | wrote opened ht => subst ht; exact absurd hopen nofun

/-- Settles O30: the two requests are equal, so are the primitive's replies, and the registers are a function of the
plaintext and `ENC_EHSZ`. -/
theorem eopenIsDeterministic : Obligations.EopenIsDeterministic := by
  intro s s' t t' hfile haead hkey hencH hs hs' h h' ht ht'
  obtain ⟨tag, p, hreply, hopened⟩ := exists_plaintext_of_opens h hs ht
  obtain ⟨tag', p', hreply', hopened'⟩ := exists_plaintext_of_opens h' hs' ht'
  have hrequest : envelopeRequest s'.env s'.eng = envelopeRequest s.env s.eng := by
    rw [requestIsFramedFromTheFile, requestIsFramedFromTheFile, hfile, hkey, hencH]
  have hp : p' = p := by
    rw [Env.aeadOpen, hrequest, haead] at hreply'
    exact AeadReply.plaintext.inj (hreply'.symm.trans hreply)
  subst hp
  have hehs : s'.eng.ehs = s.eng.ehs := by rw [ehs_eq, ehs_eq, hencH]
  rw [hopened, hopened']
  exact ⟨rfl, by simp only [openEnvelope, hehs], by simp only [openEnvelope, hehs]⟩

/-- Settles O31: `EOPEN` asks for a key; the flags that need the envelope open and the registers it fills are clear; and
the four shared commands commute with taking the key away. -/
theorem absentKey : Obligations.AbsentKey := by
  refine ⟨fun s hk => exec_refused_unless (P := s.eng.keyv = true) (fun hp => ?_) (Bool.eq_false_iff.1 hk),
    fun e h hk => ?_, fun i s t hi h => ?_⟩
  · obtain ⟨-, -, -, hkey, -⟩ := (precondition_eopen_iff s.eng).1 hp
    exact hkey
  · obtain ⟨hopen, hmeta, hdata⟩ := flags_clear_of_keyless h hk
    obtain ⟨-, hkeymat, -, hpihlen⟩ := h.stages.noOpen hopen
    exact ⟨hopen, hmeta, hdata, hkeymat, hpihlen⟩
  · exact exec_comm Engine.keyless id h (precondition_keyless hi s.eng) (fun _ => effect_keyless hi s.env s.eng) rfl

/-- Settles O32: a precondition sees the engine alone, and no effect of a keyless pass but that of `CSRNG` depends on the
blob. -/
theorem keylessPassSkipsTheBlob : Obligations.KeylessPassSkipsTheBlob := by
  intro i s t file hinv hk hi h hread
  exact exec_comm id (fun env => { env with file := file }) h rfl
    (fun hp => effect_congr_outside_blob hinv hk hi hp hread) rfl
end

section
/-! The inner header parser (44_inner_headers.md). The parts, in order: the readiness and the three verdicts of `PMETA`; the
readiness and the two verdicts of `PDATA`. -/

namespace Sys2Proof.Machine

/-! ### `PMETA` (R59, R94) -/

/-- `PMETA` is ready in a pass with no error, with the envelope open and with no MetaHeader yet (R59). -/
theorem precondition_pmeta_iff (e : Engine) :
    precondition .pmeta e = true ↔ e.run = true ∧ e.errf = false ∧ e.openv = true ∧ e.metav = false := by
  simp [precondition, and_assoc]

section
variable {len : Nat} {pih : Memory}

theorem pmetaVerdict_truncated (hlen : len < 4) : pmetaVerdict len pih = .fails .truncatedInput .metaHdr 0 4 len :=
  if_pos hlen

theorem pmetaVerdict_payloadTruncated (hlen : 4 ≤ len) (hpay : len - 4 < (le16 (pih.bytes 2 2)).toNat) :
    pmetaVerdict len pih = .fails .truncatedInput .metaHdr 4 (le16 (pih.bytes 2 2)).toNat (len - 4) := by
  rw [pmetaVerdict, if_neg (Nat.not_lt.2 hlen), parseMeta_bytes]
  exact if_pos hpay

theorem pmetaVerdict_passes (hlen : 4 ≤ len) (hpay : (le16 (pih.bytes 2 2)).toNat ≤ len - 4) :
    pmetaVerdict len pih = .passes { id := le16 (pih.bytes 0 2), paysz := le16 (pih.bytes 2 2) } := by
  rw [pmetaVerdict, if_neg (Nat.not_lt.2 hlen), parseMeta_bytes]
  exact if_neg (Nat.not_lt.2 hpay)

end

/-! ### `PDATA` (R59, R95) -/

/-- `PDATA` is ready in a pass with no error, with a MetaHeader and with no DataHeader yet (R59). -/
theorem precondition_pdata_iff (e : Engine) :
    precondition .pdata e = true ↔ e.run = true ∧ e.errf = false ∧ e.metav = true ∧ e.datav = false := by
  simp [precondition, and_assoc]

section
variable {len o : Nat} {pih : Memory}

theorem pdataVerdict_truncated (hlen : len - o < 12) :
    pdataVerdict len o pih = .fails .truncatedInput .data o 12 (len - o) :=
  if_pos hlen

theorem pdataVerdict_passes (hlen : 12 ≤ len - o) :
    pdataVerdict len o pih =
      .passes { total := le32 (pih.bytes o 4), maxblk := le16 (pih.bytes (o + 4) 2), flags := pih.read (o + 6)
                rsvd := pih.read (o + 7), fullcs := le32 (pih.bytes (o + 8) 4) } := by
  rw [pdataVerdict, if_neg (Nat.not_lt.2 hlen), parseData_bytes]

end

end Sys2Proof.Machine

open Sys2Proof Sys2Proof.Machine

/-- Settles O33: each clause is one verdict of `PMETA`, settled. -/
theorem pmetaRule : Obligations.PmetaRule := by
  refine ⟨decode_encode .pmeta, fun s =>
    ⟨exec_refused_unless (precondition_pmeta_iff s.eng).1, fun hrun herr hopen hmeta => ?_⟩⟩
  have hready := (precondition_pmeta_iff s.eng).2 ⟨hrun, herr, hopen, hmeta⟩
  have heffect := pmetaEffect_eq s.env s.eng
  exact ⟨fun hlen => exec_settle hready heffect (pmetaVerdict_truncated hlen),
    fun hlen hpay => exec_settle hready heffect (pmetaVerdict_payloadTruncated hlen hpay),
    fun hlen hpay => exec_settle hready heffect (pmetaVerdict_passes hlen hpay)⟩

/-- Settles O34: each clause is one verdict of `PDATA`, settled. -/
theorem pdataRule : Obligations.PdataRule := by
  refine ⟨decode_encode .pdata, fun s =>
    ⟨exec_refused_unless (precondition_pdata_iff s.eng).1, fun hrun herr hmeta hdata _ => ?_⟩⟩
  have hready := (precondition_pdata_iff s.eng).2 ⟨hrun, herr, hmeta, hdata⟩
  have heffect := pdataEffect_eq s.env s.eng
  exact ⟨fun hlen => exec_settle hready heffect (pdataVerdict_truncated hlen),
    fun hlen => exec_settle hready heffect (pdataVerdict_passes hlen)⟩
end

section
/-! The block stream (45_block_stream.md). The parts, in order: the readiness, the two verdicts and the restart of
`BINIT`; the readiness and the six verdicts of `BNEXT`; the inversion of `BNEXT`; the nonce of a block. -/

namespace Sys2Proof.Machine

/-! ### `BINIT` (R59, R101, R106) -/

/-- `BINIT` is ready in a pass with no error once the EncryptionHeader is parsed, whatever the stream is doing (R59). -/
theorem precondition_binit_iff (e : Engine) :
    precondition .binit e = true ↔ e.run = true ∧ e.errf = false ∧ e.encv = true := by
  simp [precondition, and_assoc]

section
variable {flen ehs : Nat}

theorem binitVerdict_truncated (hlen : flen < 58 + ehs) :
    binitVerdict flen ehs = .fails .truncatedInput .blob 42 (ehs + 16) (flen - 42) :=
  if_pos hlen

theorem binitVerdict_passes (hlen : 58 + ehs ≤ flen) : binitVerdict flen ehs = .passes (58 + ehs) :=
  if_neg (Nat.not_lt.2 hlen)

end

/-- The writes of a `BINIT` that succeeds, with the stream beginning at `start` (R101). -/
def beginStream (start : Nat) (e : Engine) : Engine :=
  { e with
    cur := start, prevv := false, prevNum := 0#16, bcount := 0, blkv := false, blkOff := 0
    blkH := { num := 0#16, paysz := 0#16, paycs := 0#16, flags := 0#8, hcs := 0#8 }
    bend := false, bact := true }

theorem binitEffect_settles (env : Env) (e : Engine) :
    binitEffect env e = (binitVerdict e.flen e.ehs).settle beginStream e :=
  binitEffect_eq env e

/-- The beginning of the stream overwrites all its registers (R106). -/
theorem beginStream_withoutStream (start : Nat) (e : Engine) :
    beginStream start e.withoutStream = beginStream start e := rfl

/-- Two engines that agree but in the stream are the same after a `BINIT` that succeeds (R106). -/
theorem exec_binit_congr {s : State} {e : Engine} (h : e.withoutStream = s.eng.withoutStream)
    (hready : precondition .binit s.eng = true) (hlen : 58 + s.eng.ehs ≤ s.eng.flen) :
    exec .binit { s with eng := e } = exec .binit s := by
  have hready' : precondition .binit e = true := (congrArg (precondition .binit) h).trans hready
  have hehs : e.ehs = s.eng.ehs := (congrArg Engine.ehs h :)
  have hflen : e.flen = s.eng.flen := (congrArg Engine.flen h :)
  have hbegin : beginStream (58 + e.ehs) e = beginStream (58 + s.eng.ehs) s.eng := by
    rw [← beginStream_withoutStream, h, beginStream_withoutStream, hehs]
  rw [exec_settle hready (binitEffect_settles s.env s.eng) (binitVerdict_passes hlen),
    exec_settle (s := { s with eng := e }) hready' (binitEffect_settles s.env e)
      (binitVerdict_passes (by rw [hehs, hflen]; exact hlen))]
  simp only [Verdict.settle, hbegin]

/-! ### `BNEXT` (R59, R102, R103) -/

/-- `BNEXT` is ready in a pass with no error while the stream is open (R59). -/
theorem precondition_bnext_iff (e : Engine) :
    precondition .bnext e = true ↔ e.run = true ∧ e.errf = false ∧ e.bact = true := by
  simp [precondition, and_assoc]

section
variable {flen cur : Nat} {prevv : Bool} {prevNum : Half} {file : Memory}

theorem bnextVerdict_end (hend : flen - cur = 0) : bnextVerdict flen cur prevv prevNum file = .passes none :=
  if_pos hend

theorem bnextVerdict_truncated (hmore : 0 < flen - cur) (hlen : flen - cur < 8) :
    bnextVerdict flen cur prevv prevNum file = .fails .truncatedInput .block cur 8 (flen - cur) :=
  (if_neg hmore.ne').trans (if_pos hlen)

/-- With a whole header in FILE the end and the truncated header are ruled out, and the tests left are of its fields. -/
theorem bnextVerdict_of_header (hlen : 8 ≤ flen - cur) :
    bnextVerdict flen cur prevv prevNum file =
      if csum8 (file.bytes cur 7) ≠ file.read (cur + 7) then
        .fails .checksumMismatch .block (cur + 7) (csum8 (file.bytes cur 7)).toNat (file.read (cur + 7)).toNat
      else if flen - cur - 8 < (le16 (file.bytes (cur + 2) 2)).toNat then
        .fails .truncatedInput .block (cur + 8) (le16 (file.bytes (cur + 2) 2)).toNat (flen - cur - 8)
      else if prevv = true ∧ (le16 (file.bytes cur 2)).toNat ≠ prevNum.toNat + 1 then
        .fails .sequenceMismatch .block cur (prevNum.toNat + 1) (le16 (file.bytes cur 2)).toNat
      else
        .passes (some { num := le16 (file.bytes cur 2), paysz := le16 (file.bytes (cur + 2) 2)
                        paycs := le16 (file.bytes (cur + 4) 2), flags := file.read (cur + 6)
                        hcs := file.read (cur + 7) }) := by
  rw [bnextVerdict, parseBlock_bytes]
  exact (if_neg (by omega)).trans (if_neg (Nat.not_lt.2 hlen))

theorem bnextVerdict_checksumMismatch (hlen : 8 ≤ flen - cur)
    (hcs : csum8 (file.bytes cur 7) ≠ file.read (cur + 7)) :
    bnextVerdict flen cur prevv prevNum file =
      .fails .checksumMismatch .block (cur + 7) (csum8 (file.bytes cur 7)).toNat (file.read (cur + 7)).toNat := by
  rw [bnextVerdict_of_header hlen, if_pos hcs]

theorem bnextVerdict_payloadTruncated (hlen : 8 ≤ flen - cur)
    (hcs : csum8 (file.bytes cur 7) = file.read (cur + 7))
    (hpay : flen - cur - 8 < (le16 (file.bytes (cur + 2) 2)).toNat) :
    bnextVerdict flen cur prevv prevNum file =
      .fails .truncatedInput .block (cur + 8) (le16 (file.bytes (cur + 2) 2)).toNat (flen - cur - 8) := by
  rw [bnextVerdict_of_header hlen, if_neg (not_not.2 hcs), if_pos hpay]

theorem bnextVerdict_sequenceMismatch (hlen : 8 ≤ flen - cur)
    (hcs : csum8 (file.bytes cur 7) = file.read (cur + 7))
    (hpay : (le16 (file.bytes (cur + 2) 2)).toNat ≤ flen - cur - 8) (hprev : prevv = true)
    (hnum : (le16 (file.bytes cur 2)).toNat ≠ prevNum.toNat + 1) :
    bnextVerdict flen cur prevv prevNum file =
      .fails .sequenceMismatch .block cur (prevNum.toNat + 1) (le16 (file.bytes cur 2)).toNat := by
  rw [bnextVerdict_of_header hlen, if_neg (not_not.2 hcs), if_neg (Nat.not_lt.2 hpay), if_pos ⟨hprev, hnum⟩]

theorem bnextVerdict_yields (hlen : 8 ≤ flen - cur) (hcs : csum8 (file.bytes cur 7) = file.read (cur + 7))
    (hpay : (le16 (file.bytes (cur + 2) 2)).toNat ≤ flen - cur - 8)
    (hseq : prevv = true → (le16 (file.bytes cur 2)).toNat = prevNum.toNat + 1) :
    bnextVerdict flen cur prevv prevNum file =
      .passes (some { num := le16 (file.bytes cur 2), paysz := le16 (file.bytes (cur + 2) 2)
                      paycs := le16 (file.bytes (cur + 4) 2), flags := file.read (cur + 6)
                      hcs := file.read (cur + 7) }) := by
  rw [bnextVerdict_of_header hlen, if_neg (not_not.2 hcs), if_neg (Nat.not_lt.2 hpay),
    if_neg fun ⟨hprev, hnum⟩ => hnum (hseq hprev)]

/-- `BNEXT` ends the stream only with the cursor at the end of FILE (R102). -/
theorem flen_le_of_bnextVerdict_ends (h : bnextVerdict flen cur prevv prevNum file = .passes none) : flen ≤ cur := by
  unfold bnextVerdict at h
  dsimp only at h
  split_ifs at h with hend
  · exact Nat.sub_eq_zero_iff_le.1 hend
  · cases h

/-- A block `BNEXT` passes with behind another has the next number (R103). -/
theorem num_of_bnextVerdict_yields {b : BlockHeader}
    (h : bnextVerdict flen cur prevv prevNum file = .passes (some b)) (hprev : prevv = true) :
    b.num.toNat = prevNum.toNat + 1 := by
  unfold bnextVerdict at h
  dsimp only at h
  split_ifs at h with _ _ _ _ hseq
  · cases h
  · cases h
    exact not_not.1 fun hnum => hseq ⟨hprev, hnum⟩

end

/-! ### What a `BNEXT` can do (R102) -/

/-- Everything a `BNEXT` can have been: refused, an error, the clean end at the end of FILE, or a block that ends inside
FILE and, behind another, has the next number. -/
inductive BnextCase (s t : State) : Prop
  | refused (ht : t = { s with eng := refuse s.eng })
  | raised (k : ErrKind) (st : ErrStruct) (off exp act : Nat) (ht : t = { s with eng := raise k st off exp act s.eng })
  | ended (hend : s.eng.flen ≤ s.eng.cur)
      (ht : t = { s with eng := { s.eng with bact := false, bend := true, blkv := false } })
  | yielded (b : BlockHeader) (hact : s.eng.bact = true) (hinside : s.eng.cur + 8 + b.paysz.toNat ≤ s.eng.flen)
      (hnum : s.eng.prevv = true → b.num.toNat = s.eng.prevNum.toNat + 1)
      (ht : t = { s with eng := yieldBlock b s.eng })

/-- The inversion of `BNEXT`. -/
theorem bnextCase_of_exec {s t : State} (h : exec .bnext s = .next t) : BnextCase s t := by
  cases hp : precondition .bnext s.eng with
  | false => rw [exec_refused hp] at h; cases h; exact .refused rfl
  | true =>
    obtain ⟨-, -, hact⟩ := (precondition_bnext_iff s.eng).1 hp
    rw [exec_ready hp, effect, bnextEffect_eq] at h
    cases h
    cases hv : bnextVerdict s.eng.flen s.eng.cur s.eng.prevv s.eng.prevNum s.env.file with
    | fails k st off exp act => exact .raised k st off exp act rfl
    | passes found =>
      cases found with
      | none => exact .ended (flen_le_of_bnextVerdict_ends hv) rfl
      | some b => exact .yielded b hact (block_inside_of_passes hv) (num_of_bnextVerdict_yields hv) rfl

/-- A `BNEXT` that counts a block has yielded one (R23). -/
theorem exists_block_of_bcount_ne {s t : State} (h : exec .bnext s = .next t) (hcount : t.eng.bcount ≠ s.eng.bcount) :
    ∃ b, s.eng.bact = true ∧ s.eng.cur + 8 + b.paysz.toNat ≤ s.eng.flen ∧
      (s.eng.prevv = true → b.num.toNat = s.eng.prevNum.toNat + 1) ∧ t = { s with eng := yieldBlock b s.eng } := by
  cases bnextCase_of_exec h with
  | refused ht | raised _ _ _ _ _ ht | ended _ ht => subst ht; exact absurd rfl hcount
  | yielded b hact hinside hnum ht => exact ⟨b, hact, hinside, hnum, ht⟩

/-- In the invariant, a `BNEXT` leaves `BEND` set only with the cursor at the end of FILE (R102, R105). -/
theorem cur_eq_flen_of_bend {s t : State} (hinv : s.eng.Inv) (h : exec .bnext s = .next t) (hbend : t.eng.bend = true) :
    t.eng.cur = t.eng.flen := by
  cases bnextCase_of_exec h with
  | refused ht | raised _ _ _ _ _ ht =>
    subst ht
    obtain ⟨-, -, hcur, -⟩ := hinv.stream.ended hbend
    exact hcur
  | ended hend ht => subst ht; exact le_antisymm hinv.stream.inFile hend
  | yielded b hact _ _ ht =>
    subst ht
    obtain ⟨-, hopen, -⟩ := hinv.stream.opened hact
    exact absurd (hopen.symm.trans hbend) nofun

/-! ### The nonce of a block (R112) -/

/-- Different block numbers have different nonces: the first two bytes of the nonce are the number (R112, R140). -/
theorem nonceOf_injective : Function.Injective nonceOf := by
  intro a b h
  have hlist := congrArg Vector.toList h
  rw [nonceOf_toList, nonceOf_toList] at hlist
  have ⟨hlow, hhigh⟩ : opcodeOf a = opcodeOf b ∧ imm8Of a = imm8Of b := by
    simpa [opcodeOf, imm8Of] using hlist
  rw [← immediate_append_opcode a, ← immediate_append_opcode b, hlow, hhigh]

end Sys2Proof.Machine

open Sys2Proof Sys2Proof.Machine

/-- Settles O37: each clause is one verdict of `BINIT`, settled. -/
theorem binitRule : Obligations.BinitRule := by
  refine ⟨decode_encode .binit, fun s =>
    ⟨exec_refused_unless (precondition_binit_iff s.eng).1, fun hrun herr henc _ => ?_⟩⟩
  have hready := (precondition_binit_iff s.eng).2 ⟨hrun, herr, henc⟩
  have heffect := binitEffect_settles s.env s.eng
  exact ⟨fun hlen => exec_settle hready heffect (binitVerdict_truncated hlen),
    fun hlen => exec_settle hready heffect (binitVerdict_passes hlen)⟩

/-- Settles O38: each clause is one verdict of `BNEXT`, settled. -/
theorem bnextRule : Obligations.BnextRule := by
  refine ⟨decode_encode .bnext, fun s =>
    ⟨exec_refused_unless (precondition_bnext_iff s.eng).1, fun hrun herr hact _ => ?_⟩⟩
  have hready := (precondition_bnext_iff s.eng).2 ⟨hrun, herr, hact⟩
  have heffect := bnextEffect_eq s.env s.eng
  exact ⟨fun hend => exec_settle hready heffect (bnextVerdict_end hend),
    fun hmore hlen => exec_settle hready heffect (bnextVerdict_truncated hmore hlen),
    fun hlen hcs => exec_settle hready heffect (bnextVerdict_checksumMismatch hlen hcs),
    fun hlen hcs hpay => exec_settle hready heffect (bnextVerdict_payloadTruncated hlen hcs hpay),
    fun hlen hcs hpay hprev hnum =>
      exec_settle hready heffect (bnextVerdict_sequenceMismatch hlen hcs hpay hprev hnum),
    fun hlen hcs hpay hseq => exec_settle hready heffect (bnextVerdict_yields hlen hcs hpay hseq)⟩

/-- Settles O39: a yielded block begins at the cursor, which the invariant puts at the end of the block before it or at
the beginning of the stream. -/
theorem blocksTileTheStream : Obligations.BlocksTileTheStream := by
  intro s t hinv h
  refine ⟨fun hcount => ?_, cur_eq_flen_of_bend hinv h⟩
  obtain ⟨b, hact, hinside, -, rfl⟩ := exists_block_of_bcount_ne h hcount
  refine ⟨rfl, by simp, by simpa using hinside, fun hprev => ?_, hinv.stream.beginning hact⟩
  obtain ⟨-, -, -, hcur, -⟩ := hinv.stream.later hprev
  exact hcur

/-- Settles O40: a block behind another passed the sequence check, which no number of 16 bits passes after 65535. -/
theorem blockNumbersNeverRepeat : Obligations.BlockNumbersNeverRepeat := by
  refine ⟨fun s t h hprev hcount => ?_, fun s t h hprev hlast => not_not.1 fun hcount => ?_,
    fun _ _ hnonce => nonceOf_injective hnonce⟩
  · obtain ⟨b, -, -, hnum, rfl⟩ := exists_block_of_bcount_ne h hcount
    exact ⟨hnum hprev, rfl⟩
  · obtain ⟨b, -, -, hnum, -⟩ := exists_block_of_bcount_ne h hcount
    have hwraps : b.num.toNat = 65536 := by simpa [hlast] using hnum hprev
    exact absurd b.num.isLt (by omega)

/-- Settles O41: after `BINIT` the two engines are the same, so the walk goes on from one state. -/
theorem streamIsRestartable : Obligations.StreamIsRestartable := by
  intro s e h hrun herr henc hlen k
  rw [pseudoBlocks, exec_binit_congr h ((precondition_binit_iff s.eng).2 ⟨hrun, herr, henc⟩) hlen, pseudoBlocks]
end

section
/-! The payload transform (46_payload_transform.md). The parts, in order: the outputs that are views of the presented block;
the collaborator's two steps and its three results. -/

namespace Sys2Proof.Machine

/-! ### The outputs while a block is presented (R26, R112) -/

section
variable {e : Engine} (h : e.blkv = true)
include h

theorem blkPayOff_of_blkv : e.blkPayOff = e.blkOff + 8 := by
  rw [Engine.blkPayOff, gated, if_pos h]

theorem blkNonce_of_blkv : e.blkNonce = nonceOf e.blkH.num := if_pos h

end

/-! ### The two steps of the collaborator (R113) -/

theorem flagged_eq_true_iff (flags mask : Byte) : flagged flags mask = true ↔ flags &&& mask ≠ 0 := bne_iff_ne

/-- With no flag set, no mask selects the block. -/
theorem flagged_zero (mask : Byte) : ¬ flagged 0 mask = true :=
  fun h => (flagged_eq_true_iff 0 mask).1 h BitVec.zero_and

section
variable {x : TransformOut} {payload y z : List Byte}

theorem decryptPayload_eq (x : TransformOut) (payload : List Byte) :
    decryptPayload x payload =
      if x.flags &&& Config.blkFEnc = 0 then some payload else Config.streamXform x.keymat x.nonce payload := by
  simp only [decryptPayload, flagged_eq_true_iff, ite_not]

theorem expandPayload_eq (x : TransformOut) (y : List Byte) :
    expandPayload x y =
      if x.flags &&& Config.blkFComp = 0 then some y else Config.decompress y x.maxblk.toNat := by
  simp only [expandPayload, flagged_eq_true_iff, ite_not]

theorem decryptPayload_of_flags_zero (h : x.flags = 0) : decryptPayload x payload = some payload := by
  rw [decryptPayload, h, if_neg (flagged_zero _)]

theorem expandPayload_of_flags_zero (h : x.flags = 0) : expandPayload x y = some y := by
  rw [expandPayload, h, if_neg (flagged_zero _)]

/-! ### The three results of the collaborator (R113, R116) -/

theorem transformPayload_decryptionFailed (hcipher : decryptPayload x payload = none) :
    transformPayload x payload = .failed .decryptionFailed := by
  rw [transformPayload, hcipher]

theorem transformPayload_decompressionFailed (hcipher : decryptPayload x payload = some y)
    (hexpand : expandPayload x y = none) : transformPayload x payload = .failed .decompressionFailed := by
  simp only [transformPayload, hcipher, hexpand]

theorem transformPayload_bytes (hcipher : decryptPayload x payload = some y) (hexpand : expandPayload x y = some z) :
    transformPayload x payload = .bytes z := by
  simp only [transformPayload, hcipher, hexpand]

end

end Sys2Proof.Machine

open Sys2Proof Sys2Proof.Machine

/-- Settles O55: the registers are copied whatever the flags are; the two views pass their gate under `BLKV`. -/
theorem transformSideOutputs : Obligations.TransformSideOutputs := by
  refine fun e => ⟨fun _ => rfl, fun _ => rfl, fun hblk => ⟨rfl, rfl, blkPayOff_of_blkv hblk, rfl, ?_⟩⟩
  show e.blkNonce.toList = _
  rw [blkNonce_of_blkv hblk, nonceOf_toList]

/-- Settles O56: the cases are the results of the cipher and then, on its output, of the decompressor. -/
theorem transformDecryptsThenDecompresses : Obligations.TransformDecryptsThenDecompresses := by
  refine fun x payload => ⟨fun hflags =>
    transformPayload_bytes (decryptPayload_of_flags_zero hflags) (expandPayload_of_flags_zero hflags), ?_⟩
  rw [← decryptPayload_eq]
  cases hcipher : decryptPayload x payload with
  | none => exact transformPayload_decryptionFailed hcipher
  | some y =>
    dsimp only
    rw [← expandPayload_eq]
    cases hexpand : expandPayload x y with
    | none => exact transformPayload_decompressionFailed hcipher hexpand
    | some z => exact transformPayload_bytes hcipher hexpand
end

section
/-! Errors and reset (60_exceptions.md, 70_reset_and_hazards.md). The parts, in order: the record a verdict raises; for each
decode command, that its verdict raises the first row of the error table; what a command does to the error registers; what
the host reads of the reset engine. -/

namespace Sys2Proof.Machine

/-! ### The record of a verdict (R117 to R119) -/

/-- The record a verdict raises, if it raises one. -/
def Verdict.record {α : Type} : Verdict α → Option ErrRecord
  | .fails kind struct off exp act => some ⟨kind.code, struct.code, off, BitVec.ofNat 32 exp, act⟩
  | .passes _ => none

section
variable {α : Type}

@[simp] theorem record_fails (k : ErrKind) (st : ErrStruct) (off exp act : Nat) :
    (Verdict.fails k st off exp act : Verdict α).record = some ⟨k.code, st.code, off, BitVec.ofNat 32 exp, act⟩ := rfl

@[simp] theorem record_passes (a : α) : (Verdict.passes a).record = none := rfl

@[simp] theorem record_ite (c : Prop) [Decidable c] (v w : Verdict α) :
    (if c then v else w).record = if c then v.record else w.record :=
  apply_ite Verdict.record c v w

end

/-- What a command that raises the given record, or none, does to the error registers: the eight writes of the error entry
and no other, or nothing (R117). -/
def ErrorOutcome (e e' : Engine) : Option ErrRecord → Prop
  | some r => e' = { e with err := r, errf := true, bact := false, blkv := false }
  | none => e'.errf = e.errf ∧ e'.err = e.err

theorem errorOutcome_some_iff {e e' : Engine} {r : ErrRecord} :
    ErrorOutcome e e' (some r) ↔ e' = { e with err := r, errf := true, bact := false, blkv := false } := Iff.rfl

theorem errorOutcome_none_iff {e e' : Engine} :
    ErrorOutcome e e' none ↔ e'.errf = e.errf ∧ e'.err = e.err := Iff.rfl

/-- A settled verdict raises its record when the writes leave the error registers alone. -/
theorem settle_errorOutcome {α : Type} {v : Verdict α} {writes : α → Engine → Engine} {e : Engine}
    {record : Option ErrRecord} (hv : v.record = record)
    (hw : ∀ a, (writes a e).errf = e.errf ∧ (writes a e).err = e.err) : ErrorOutcome e (v.settle writes e) record := by
  subst hv
  cases v with
  | fails k st off exp act => rfl
  | passes a => exact hw a

/-! ### The error table (R120, R121) -/

@[simp] theorem firstError_nil : firstError [] = none := rfl

@[simp] theorem firstError_cons (holds : Bool) (r : ErrRecord) (rows : List (Bool × ErrRecord)) :
    firstError ((holds, r) :: rows) = if holds then some r else firstError rows := rfl

/-! A verdict's tests and the rows of its command are one chain: each test is the condition of its row, and the values it
raises with are those of the row's record. -/

section
variable (env : Env) (e : Engine)

theorem record_pmainVerdict :
    (pmainVerdict e.flen env.file).record = firstError (errorRows .pmain env e) := by
  simp [pmainVerdict, errorRows, ErrKind.code, ErrStruct.code, Config.magic]

theorem record_pencVerdict :
    (pencVerdict e.flen env.file).record = firstError (errorRows .penc env e) := by
  simp [pencVerdict, errorRows, ErrKind.code, ErrStruct.code]

theorem record_eopenVerdict (tag : Vector Byte 16) :
    (eopenVerdict e.flen e.ehs tag (env.aeadOpen (envelopeRequest env e))).record =
      firstError (errorRows .eopen env e) := by
  cases hreply : env.aeadOpen (envelopeRequest env e) with
  | authFailure | plaintext p => simp [eopenVerdict, errorRows, hreply, ErrKind.code, ErrStruct.code, ehs_eq]

theorem record_pmetaVerdict :
    (pmetaVerdict e.pihlen.toNat e.pih).record = firstError (errorRows .pmeta env e) := by
  simp [pmetaVerdict, parseMeta_bytes, errorRows, ErrKind.code, ErrStruct.code]

theorem record_pdataVerdict :
    (pdataVerdict e.pihlen.toNat (4 + e.metaH.paysz.toNat) e.pih).record = firstError (errorRows .pdata env e) := by
  simp [pdataVerdict, errorRows, ErrKind.code, ErrStruct.code]

theorem record_binitVerdict :
    (binitVerdict e.flen e.ehs).record = firstError (errorRows .binit env e) := by
  simp [binitVerdict, errorRows, ErrKind.code, ErrStruct.code, ehs_eq]

/-- The rows of `BNEXT` ask for a byte at the cursor first, so at the end of FILE none holds; before it the first row is that
of a header cut short, and the others stand behind a whole header. -/
theorem record_bnextVerdict :
    (bnextVerdict e.flen e.cur e.prevv e.prevNum env.file).record = firstError (errorRows .bnext env e) := by
  rcases Nat.eq_zero_or_pos (e.flen - e.cur) with hend | hmore
  · rw [bnextVerdict_end hend]
    simp [errorRows, hend]
  rcases Nat.lt_or_ge (e.flen - e.cur) 8 with hlen | hlen
  · rw [bnextVerdict_truncated hmore hlen]
    simp [errorRows, hmore, hlen, ErrKind.code, ErrStruct.code]
  · rw [bnextVerdict_of_header hlen]
    simp [errorRows, hmore, hlen, ErrKind.code, ErrStruct.code]

end

/-! ### What a command does to the error registers (R117, R122) -/

section
variable {i : Instr} {e : Engine}

/-- The effect of a command other than `START` and `END` raises the first row of the error table that holds for it, or leaves
the error registers alone. -/
theorem effect_errorOutcome (env : Env) (hs : i ≠ .start) (he : i ≠ .endPass) :
    ErrorOutcome e (effect i env e) (firstError (errorRows i env e)) := by
  cases i with
  | start => exact absurd rfl hs
  | endPass => exact absurd rfl he
  | nop | csclr | cspush _ | csrng => exact ⟨rfl, rfl⟩
  | pmain =>
    rw [effect, pmainEffect_eq]
    exact settle_errorOutcome (record_pmainVerdict env e) fun _ => ⟨rfl, rfl⟩
  | penc =>
    rw [effect, pencEffect_eq]
    exact settle_errorOutcome (record_pencVerdict env e) fun _ => ⟨rfl, rfl⟩
  | eopen =>
    rw [effect, eopenEffect_eq]
    exact settle_errorOutcome (record_eopenVerdict env e _) fun _ => ⟨rfl, rfl⟩
  | pmeta =>
    rw [effect, pmetaEffect_eq]
    exact settle_errorOutcome (record_pmetaVerdict env e) fun _ => ⟨rfl, rfl⟩
  | pdata =>
    rw [effect, pdataEffect_eq]
    exact settle_errorOutcome (record_pdataVerdict env e) fun _ => ⟨rfl, rfl⟩
  | binit =>
    rw [effect, binitEffect_eq]
    exact settle_errorOutcome (record_binitVerdict env e) fun _ => ⟨rfl, rfl⟩
  | bnext =>
    rw [effect, bnextEffect_eq]
    exact settle_errorOutcome (record_bnextVerdict env e) fun found => by cases found <;> exact ⟨rfl, rfl⟩

/-- After an error no decode command is ready (R59, R122). -/
theorem precondition_eq_false_of_errf (herr : e.errf = true) (hi : isDecodeCommand i = true) :
    precondition i e = false := by
  cases i with
  | nop | start | endPass | csclr | cspush _ | csrng => cases hi
  | pmain | penc | eopen | pmeta | pdata | binit | bnext => simp [precondition, Engine.decoding, herr]

/-- Only a decode command has rows in the error table (R120). -/
theorem errorRows_eq_nil (env : Env) (hi : isDecodeCommand i = false) : errorRows i env e = [] := by
  cases i with
  | nop | start | endPass | csclr | cspush _ | csrng => rfl
  | pmain | penc | eopen | pmeta | pdata | binit | bnext => cases hi

/-- After an error a command other than `START` and `END`, done or refused, leaves the error registers alone (R122). -/
theorem command_keeps_error (env : Env) (herr : e.errf = true) (hs : i ≠ .start) (he : i ≠ .endPass) :
    (if precondition i e then effect i env e else refuse e).errf = true ∧
      (if precondition i e then effect i env e else refuse e).err = e.err := by
  cases hi : isDecodeCommand i with
  | true => rw [precondition_eq_false_of_errf herr hi]; exact ⟨herr, rfl⟩
  | false =>
    have houtcome := effect_errorOutcome (e := e) env hs he
    rw [errorRows_eq_nil env hi, firstError_nil, errorOutcome_none_iff] at houtcome
    obtain ⟨hflag, hrecord⟩ := houtcome
    split
    next => exact ⟨hflag.trans herr, hrecord⟩
    next => exact ⟨herr, rfl⟩

end

/-- A command that ends with an error recorded is neither `START` nor `END` (R60, R61). -/
theorem not_start_end_of_errf {i : Instr} {s t : State} (h : exec i s = .next t) (ht : t.eng.errf = true) :
    i ≠ .start ∧ i ≠ .endPass := by
  constructor
  · rintro rfl; cases h; exact absurd ht nofun
  · rintro rfl; cases h; exact absurd ht nofun

/-! ### What the host reads of the reset engine (R29, R136) -/

/-- Every register the host reads as a number is 0 in the reset engine; 17, 22 and 48 are `ENC_NONCE`, `ENV_TAG` and
`BLK_NONCE`. -/
theorem hostRead_reset {reg : Nat} (i : Nat) (h17 : reg ≠ 17) (h22 : reg ≠ 22) (h48 : reg ≠ 48) :
    hostRead Engine.reset reg i = .num 0 := by
  unfold hostRead
  split
  case h_17 => exact absurd rfl h17
  case h_22 => exact absurd rfl h22
  case h_48 => exact absurd rfl h48
  all_goals rfl

end Sys2Proof.Machine

open Sys2Proof Sys2Proof.Machine

/-- Settles O43: a command that ends with an error it did not begin with raised a row of the error table; one that began with
an error leaves the record alone. -/
theorem errorEntryIsPrecise : Obligations.ErrorEntryIsPrecise := by
  intro i s t h ht
  obtain ⟨hs, he⟩ := not_start_end_of_errf h ht
  cases eq_of_exec h
  constructor
  · intro herr
    cases hp : precondition i s.eng with
    | false => simp [hp, herr] at ht
    | true =>
      have houtcome := effect_errorOutcome (e := s.eng) s.env hs he
      simp only [hp, if_true] at ht ⊢
      cases hrow : firstError (errorRows i s.env s.eng) with
      | none =>
        rw [hrow, errorOutcome_none_iff] at houtcome
        obtain ⟨hflag, -⟩ := houtcome
        exact absurd (herr.symm.trans (hflag.symm.trans ht)) nofun
      | some r =>
        rw [hrow, errorOutcome_some_iff] at houtcome
        rw [houtcome]
  · intro hne
    refine Bool.eq_false_iff.2 fun herr => hne ?_
    exact (command_keeps_error s.env herr hs he).2

/-- Settles O44: the effect of a ready command raises the first row of the table that holds, if one does. The invariant is
not needed: the table and the commands subtract alike. -/
theorem errorTableIsExact : Obligations.ErrorTableIsExact := by
  intro i s t _ hready hs he h
  rw [exec_ready hready] at h
  cases h
  have houtcome := effect_errorOutcome (e := s.eng) s.env hs he
  cases hrow : firstError (errorRows i s.env s.eng) with
  | none => rw [hrow, errorOutcome_none_iff] at houtcome; exact houtcome
  | some r => rw [hrow, errorOutcome_some_iff] at houtcome; simp [houtcome]

/-- Settles O45: after an error no decode command is ready, and the only steps that write the error registers are reset,
`START` and `END`. -/
theorem errorsAreTerminal : Obligations.ErrorsAreTerminal := by
  refine ⟨fun i s herr hi => exec_refused (precondition_eq_false_of_errf herr hi), fun s t hstep herr => ?_⟩
  cases stepCase_of_step hstep with
  | idle _ ht | reserved _ _ _ ht | arg0 _ _ _ _ ht | arg1 _ _ _ _ ht | ignored _ _ _ ht | drive _ _ _ _ _ _ ht
  | place _ _ _ _ ht => subst ht; exact .inl ⟨herr, rfl⟩
  | reset rest hh _ => exact .inr ⟨_, rest, hh, .inl rfl⟩
  | command rest v i hh hv hd _ ht =>
    have hw := value_of_decode hv hd
    by_cases hs : i = .start
    · subst hs; subst hw; exact .inr ⟨_, rest, hh, .inr (.inl rfl)⟩
    by_cases he : i = .endPass
    · subst he; subst hw; exact .inr ⟨_, rest, hh, .inr (.inr rfl)⟩
    subst ht
    exact .inl (command_keeps_error s.env herr hs he)

/-- Settles O12: reset and `END` have one effect, the reset engine. -/
theorem resetInputLeavesTheEndState : Obligations.ResetInputLeavesTheEndState :=
  have ⟨_, hend, _⟩ := endRule
  fun _ _ h => ⟨step_of_host h, (step_of_host h).trans (hend _).symm⟩

/-- Settles O13: the three byte arrays the host reads are all zero, every other read is 0, and an empty PIH reads 0. -/
theorem everythingReadsZeroAfterReset : Obligations.EverythingReadsZeroAfterReset := by
  refine ⟨fun reg i => ?_, Vector.toList_replicate, Vector.toList_replicate, rfl, fun _ => rfl⟩
  by_cases h17 : reg = 17
  · subst h17; exact .inr ⟨24, congrArg HostValue.bytes Vector.toList_replicate⟩
  by_cases h22 : reg = 22
  · subst h22; exact .inr ⟨16, congrArg HostValue.bytes Vector.toList_replicate⟩
  by_cases h48 : reg = 48
  · subst h48; exact .inr ⟨24, congrArg HostValue.bytes Vector.toList_replicate⟩
  exact .inl (hostRead_reset i h17 h22 h48)

/-- Settles O57: the reset engine meets its invariant, and the inputs are an empty FILE and 0. -/
theorem resetMeetsTheInvariant : Obligations.ResetMeetsTheInvariant where
  eng := engineReset_inv
  env := { fileWf := empty_wf, fileBelow := nofun, flenIn := Nat.two_pow_pos _ }
  flen := le_rfl
end
